-- ==== Sys2Proof/Word.lean ====
section
/-! DEFINITION. The word and byte types of the block: memory, registers and instructions are whole
16-bit words (R9, R55); bytes appear only at the console ports and in object files (R56). -/

namespace Sys2Proof

/-- R9, R12: a 16-bit word; `+` on words is modulo 2^16. -/
abbrev Word := BitVec 16

/-- R36, R37, R56: a console or object-file byte; also an 8-bit trap vector (R92). -/
abbrev Byte := BitVec 8

end Sys2Proof
end

