-- ==== Sys2Proof/Syntax.lean ====
section
/-! DEFINITION. The instructions: one constructor per row of spec/opcode_table.json, over the eight
register names. Operand fields keep their encoded width; the meanings extend them (R94). -/

namespace Sys2Proof

/-- R21: the eight general-purpose registers. -/
inductive Reg where
  | R0 | R1 | R2 | R3 | R4 | R5 | R6 | R7
  deriving DecidableEq, Repr

/-- R82: the instructions, one constructor per row of the opcode table (log entry 17). -/
inductive Instr where
  /-- ADD DR, SR1, SR2 (R120). -/
  | addR (dr sr1 sr2 : Reg)
  /-- ADD DR, SR1, imm5 (R121). -/
  | addI (dr sr1 : Reg) (imm5 : BitVec 5)
  /-- AND DR, SR1, SR2 (R122). -/
  | andR (dr sr1 sr2 : Reg)
  /-- AND DR, SR1, imm5 (R123). -/
  | andI (dr sr1 : Reg) (imm5 : BitVec 5)
  /-- NOT DR, SR (R124). -/
  | not (dr sr : Reg)
  /-- BR with its n, z, p bits and PCoffset9 (R140). -/
  | br (n z p : Bool) (off9 : BitVec 9)
  /-- JMP BaseR (R142). -/
  | jmp (base : Reg)
  /-- RET: the words of JMP with BaseR = 7 (R143). -/
  | ret
  /-- JSR PCoffset11, the long form (R144). -/
  | jsr (off11 : BitVec 11)
  /-- JSRR BaseR, the short form (R145). -/
  | jsrr (base : Reg)
  /-- LD DR, PCoffset9 (R160). -/
  | ld (dr : Reg) (off9 : BitVec 9)
  /-- LDI DR, PCoffset9 (R161). -/
  | ldi (dr : Reg) (off9 : BitVec 9)
  /-- LDR DR, BaseR, offset6 (R162). -/
  | ldr (dr base : Reg) (off6 : BitVec 6)
  /-- LEA DR, PCoffset9 (R163). -/
  | lea (dr : Reg) (off9 : BitVec 9)
  /-- ST SR, PCoffset9 (R180). -/
  | st (sr : Reg) (off9 : BitVec 9)
  /-- STI SR, PCoffset9 (R181). -/
  | sti (sr : Reg) (off9 : BitVec 9)
  /-- STR SR, BaseR, offset6 (R182). -/
  | str (sr base : Reg) (off6 : BitVec 6)
  /-- TRAP trapvect8 (R200). -/
  | trap (vec : Byte)
  /-- TRAP GETC (R203). -/
  | getc
  /-- TRAP OUT (R204). -/
  | out
  /-- TRAP PUTS (R205). -/
  | puts
  /-- TRAP IN (R206). -/
  | inChar
  /-- TRAP PUTSP (R207). -/
  | putsp
  /-- TRAP HALT (R208). -/
  | halt
  /-- RTI, opcode 1000, reserved (R230). -/
  | rti
  /-- RES, opcode 1101, reserved (R231). -/
  | res
  deriving DecidableEq, Repr

end Sys2Proof
end

