-- ==== Sys2Proof/Machine/Service.lean ====
section
/-! DEFINITION. The six built-in trap services and their vector codes (R202). -/

namespace Sys2Proof.Machine

/-- R202: the services TRAP selects among. -/
inductive Service where
  | getc | out | puts | inChar | putsp | halt
  deriving DecidableEq, Repr

/-- R202: the service table. HALT = 0x25 is the source's; PRESUMED by the spec itself, unsafe, log
entry 9: the other five codes (D5). -/
def serviceCode : Service → Byte
  | .getc => 0x20
  | .out => 0x21
  | .puts => 0x22
  | .inChar => 0x23
  | .putsp => 0x24
  | .halt => 0x25

/-- R200, R202: the service a vector selects; `none` for a vector outside the six. -/
def serviceOf (vec : Byte) : Option Service :=
  if vec = serviceCode .getc then some .getc
  else if vec = serviceCode .out then some .out
  else if vec = serviceCode .puts then some .puts
  else if vec = serviceCode .inChar then some .inChar
  else if vec = serviceCode .putsp then some .putsp
  else if vec = serviceCode .halt then some .halt
  else none

end Sys2Proof.Machine
end

