-- ==== Sys2Proof/WellFormed.lean ====
section
/-! DEFINITION. Which terms of Instr some word decodes to. Two rows of the table are named apart from
a row that shares their words: RET from JMP (R143) and the six services from TRAP (R200), so `jmp R7`
and `trap` with a service's vector are not decoded to (log entry 17). Their meanings are still those
of RET and of the service. -/

namespace Sys2Proof

/-- Every operand value is admitted, but for the words that RET and the six services name. -/
def Instr.wellFormed : Instr → Bool
  | .jmp base => decide (base ≠ .R7)
  | .trap vec => decide (Machine.serviceOf vec = none)
  | .addR _ _ _ | .addI _ _ _ | .andR _ _ _ | .andI _ _ _ | .not _ _ | .br _ _ _ _ | .ret | .jsr _
  | .jsrr _ | .ld _ _ | .ldi _ _ | .ldr _ _ _ | .lea _ _ | .st _ _ | .sti _ _ | .str _ _ _
  | .getc | .out | .puts | .inChar | .putsp | .halt | .rti | .res => true

end Sys2Proof
end

