-- ==== Sys2Proof/Decode.lean ====
section
/-! DEFINITION. The decode-and-route function (R100), total on every word; the encoder that writes the
words of R104; the bits the decoder does not read (R97). -/

namespace Sys2Proof

/-- R21, R96: a 3-bit register field with value i names Ri. -/
def regOfBits (b : BitVec 3) : Reg :=
  match b.toNat with
  | 0 => .R0
  | 1 => .R1
  | 2 => .R2
  | 3 => .R3
  | 4 => .R4
  | 5 => .R5
  | 6 => .R6
  | _ => .R7

/-- R96: the field value that names a register. -/
def regBits : Reg → BitVec 3
  | .R0 => 0
  | .R1 => 1
  | .R2 => 2
  | .R3 => 3
  | .R4 => 4
  | .R5 => 5
  | .R6 => 6
  | .R7 => 7

/-- R81: the opcode is `instr[15:12]`. -/
def opcodeOf (w : Word) : BitVec 4 := w.extractLsb' 12 4

/-- R83-R91: the register named by `instr[11:9]` (DR, or SR of a store). -/
def regAt11 (w : Word) : Reg := regOfBits (w.extractLsb' 9 3)

/-- R83-R91: the register named by `instr[8:6]` (SR1, SR of NOT, BaseR). -/
def regAt8 (w : Word) : Reg := regOfBits (w.extractLsb' 6 3)

/-- R83: the register named by `instr[2:0]` (SR2). -/
def regAt2 (w : Word) : Reg := regOfBits (w.extractLsb' 0 3)

/-- R84: imm5, `instr[4:0]`. -/
def imm5Of (w : Word) : BitVec 5 := w.extractLsb' 0 5

/-- R91: offset6, `instr[5:0]`. -/
def offset6Of (w : Word) : BitVec 6 := w.extractLsb' 0 6

/-- R86, R90: PCoffset9, `instr[8:0]`. -/
def offset9Of (w : Word) : BitVec 9 := w.extractLsb' 0 9

/-- R88: PCoffset11, `instr[10:0]`. -/
def offset11Of (w : Word) : BitVec 11 := w.extractLsb' 0 11

/-- R92: trapvect8, `instr[7:0]`. -/
def trapVectOf (w : Word) : Byte := w.extractLsb' 0 8

/-- R100, case 0xF: the row of the table that a vector selects (log entry 17). -/
def trapInstr (vec : Byte) : Instr :=
  match Machine.serviceOf vec with
  | some .getc => .getc
  | some .out => .out
  | some .puts => .puts
  | some .inChar => .inChar
  | some .putsp => .putsp
  | some .halt => .halt
  | none => .trap vec

/-- R100, case 0xC: RET when BaseR = 7 (R143), JMP otherwise. -/
def jumpInstr (base : Reg) : Instr :=
  if base = .R7 then .ret else .jmp base

/-- R100: the decoder, total on every 16-bit word. DESIGN CHOICE of the spec (D3, D4), unsafe, log
entries 10 and 11: padding and constant bits are ignored, JSRR's BaseR is at bits 8-6. -/
def decode (w : Word) : Instr :=
  match (opcodeOf w).toNat with
  | 0x0 => .br (w.getLsbD 11) (w.getLsbD 10) (w.getLsbD 9) (offset9Of w)
  | 0x1 =>
    if w.getLsbD 5 then .addI (regAt11 w) (regAt8 w) (imm5Of w)
    else .addR (regAt11 w) (regAt8 w) (regAt2 w)
  | 0x2 => .ld (regAt11 w) (offset9Of w)
  | 0x3 => .st (regAt11 w) (offset9Of w)
  | 0x4 => if w.getLsbD 11 then .jsr (offset11Of w) else .jsrr (regAt8 w)
  | 0x5 =>
    if w.getLsbD 5 then .andI (regAt11 w) (regAt8 w) (imm5Of w)
    else .andR (regAt11 w) (regAt8 w) (regAt2 w)
  | 0x6 => .ldr (regAt11 w) (regAt8 w) (offset6Of w)
  | 0x7 => .str (regAt11 w) (regAt8 w) (offset6Of w)
  | 0x8 => .rti
  | 0x9 => .not (regAt11 w) (regAt8 w)
  | 0xA => .ldi (regAt11 w) (offset9Of w)
  | 0xB => .sti (regAt11 w) (offset9Of w)
  | 0xC => jumpInstr (regAt8 w)
  | 0xD => .res
  | 0xE => .lea (regAt11 w) (offset9Of w)
  | _ => trapInstr (trapVectOf w)

/-- R80: every instruction is exactly one word, so the table's bits are the word itself; bits above
`nbits` are 0. -/
def decodeTableWord (nbits w : Nat) : Option Instr :=
  some (decode (BitVec.ofNat 16 (w % 2 ^ nbits)))

/-- R11: a word with the field `v` from bit `lo` up, and zeros elsewhere. -/
def bitsAt {n : Nat} (lo : Nat) (v : BitVec n) : Word := v.setWidth 16 <<< lo

/-- R92, R104: `1111 0000 trapvect8`. -/
def encodeTrap (vec : Byte) : Word := bitsAt 12 0b1111#4 ||| bitsAt 0 vec

/-- R87, R104: `1100 000 BaseR 000000`. -/
def encodeJump (base : Reg) : Word := bitsAt 12 0b1100#4 ||| bitsAt 6 (regBits base)

/-- R83: an operate word in register form, bits 5-3 zero. -/
def encodeOperateR (op : BitVec 4) (dr sr1 sr2 : Reg) : Word :=
  bitsAt 12 op ||| bitsAt 9 (regBits dr) ||| bitsAt 6 (regBits sr1) ||| bitsAt 0 (regBits sr2)

/-- R84: an operate word in immediate form, bit 5 one. -/
def encodeOperateI (op : BitVec 4) (dr sr1 : Reg) (imm5 : BitVec 5) : Word :=
  bitsAt 12 op ||| bitsAt 9 (regBits dr) ||| bitsAt 6 (regBits sr1) ||| bitsAt 5 0b1#1 |||
    bitsAt 0 imm5

/-- R90: a word of the PC-relative memory form. -/
def encodePcRel (op : BitVec 4) (r : Reg) (off9 : BitVec 9) : Word :=
  bitsAt 12 op ||| bitsAt 9 (regBits r) ||| bitsAt 0 off9

/-- R91: a word of the base+offset memory form. -/
def encodeBaseOff (op : BitVec 4) (r base : Reg) (off6 : BitVec 6) : Word :=
  bitsAt 12 op ||| bitsAt 9 (regBits r) ||| bitsAt 6 (regBits base) ||| bitsAt 0 off6

/-- R83-R93, R104: the word the assembler writes for each instruction, padding and constant bits at
the assembler's values. DESIGN CHOICE, safe, log entry 19: the spec gives no word for RTI and
RES but their opcode (R93, bits 11-0 ignored), and zeros are written there. -/
def encode : Instr → Word
  | .addR dr sr1 sr2 => encodeOperateR 0b0001 dr sr1 sr2
  | .addI dr sr1 imm5 => encodeOperateI 0b0001 dr sr1 imm5
  | .andR dr sr1 sr2 => encodeOperateR 0b0101 dr sr1 sr2
  | .andI dr sr1 imm5 => encodeOperateI 0b0101 dr sr1 imm5
  | .not dr sr =>
    bitsAt 12 0b1001#4 ||| bitsAt 9 (regBits dr) ||| bitsAt 6 (regBits sr) ||| bitsAt 0 0b111111#6
  | .br n z p off9 =>
    bitsAt 12 0b0000#4 ||| bitsAt 11 (BitVec.ofBool n) ||| bitsAt 10 (BitVec.ofBool z) |||
      bitsAt 9 (BitVec.ofBool p) ||| bitsAt 0 off9
  | .jmp base => encodeJump base
  | .ret => encodeJump .R7
  | .jsr off11 => bitsAt 12 0b0100#4 ||| bitsAt 11 0b1#1 ||| bitsAt 0 off11
  | .jsrr base => bitsAt 12 0b0100#4 ||| bitsAt 6 (regBits base)
  | .ld dr off9 => encodePcRel 0b0010 dr off9
  | .ldi dr off9 => encodePcRel 0b1010 dr off9
  | .ldr dr base off6 => encodeBaseOff 0b0110 dr base off6
  | .lea dr off9 => encodePcRel 0b1110 dr off9
  | .st sr off9 => encodePcRel 0b0011 sr off9
  | .sti sr off9 => encodePcRel 0b1011 sr off9
  | .str sr base off6 => encodeBaseOff 0b0111 sr base off6
  | .trap vec => encodeTrap vec
  | .getc => encodeTrap (Machine.serviceCode .getc)
  | .out => encodeTrap (Machine.serviceCode .out)
  | .puts => encodeTrap (Machine.serviceCode .puts)
  | .inChar => encodeTrap (Machine.serviceCode .inChar)
  | .putsp => encodeTrap (Machine.serviceCode .putsp)
  | .halt => encodeTrap (Machine.serviceCode .halt)
  | .rti => bitsAt 12 0b1000#4
  | .res => bitsAt 12 0b1101#4

/-- R82: the opcode each instruction is routed by. -/
def Instr.opcode : Instr → BitVec 4
  | .br _ _ _ _ => 0x0
  | .addR _ _ _ | .addI _ _ _ => 0x1
  | .ld _ _ => 0x2
  | .st _ _ => 0x3
  | .jsr _ | .jsrr _ => 0x4
  | .andR _ _ _ | .andI _ _ _ => 0x5
  | .ldr _ _ _ => 0x6
  | .str _ _ _ => 0x7
  | .rti => 0x8
  | .not _ _ => 0x9
  | .ldi _ _ => 0xA
  | .sti _ _ => 0xB
  | .jmp _ | .ret => 0xC
  | .res => 0xD
  | .lea _ _ => 0xE
  | .trap _ | .getc | .out | .puts | .inChar | .putsp | .halt => 0xF

/-- R97: the bits of a word that its handler does not read, as a mask. -/
def ignoredBits (w : Word) : Word :=
  match (opcodeOf w).toNat with
  | 0x1 | 0x5 => if w.getLsbD 5 then 0 else 0x0018
  | 0x4 => if w.getLsbD 11 then 0 else 0x063F
  | 0x8 | 0xD => 0x0FFF
  | 0x9 => 0x003F
  | 0xC => 0x0E3F
  | 0xF => 0x0F00
  | _ => 0

/-- R85, R97: what the assembler writes in the ignored bits: ones for NOT, zeros elsewhere. The zeros
of RTI and RES are the model's own (log entry 19). -/
def assemblerBits (w : Word) : Word :=
  match (opcodeOf w).toNat with
  | 0x9 => 0x003F
  | _ => 0

/-- R97: the word with the constant that `encode` writes in every ignored bit (log entry 19). -/
def canonicalWord (w : Word) : Word := (w &&& ~~~ ignoredBits w) ||| assemblerBits w

end Sys2Proof
end

