-- ==== Sys2Proof/Config.lean ====
section
/-! DEFINITION. What the spec leaves open: the type of its named parameters (R10) and, as constants
with no body, the values no document fixes. Nothing can be proved of an opaque constant but what
holds for every value of its type. -/

namespace Sys2Proof

/-- R36: `INPUT_END`, what InputChar() does when the host's source is exhausted. -/
inductive InputEnd where
  /-- The step that asks for a character never completes. -/
  | stuck
  /-- The call returns this word. -/
  | value (w : Word)
  deriving DecidableEq, Repr, Inhabited

/-- R10: the named parameters of the block, fixed for a machine (log entry 2). -/
structure Params where
  /-- `TRAP_LINKS_R7` (R201). -/
  trapLinksR7 : Bool
  /-- `TRAP_INPUT_SETS_CC` (R210). -/
  trapInputSetsCC : Bool
  /-- `INPUT_END` (R36). -/
  inputEnd : InputEnd
  /-- `IN_PROMPT` (R206). -/
  inPrompt : List Byte
  /-- `KBSR_ADDR` (R53). -/
  kbsrAddr : Word
  /-- `KBDR_ADDR` (R53). -/
  kbdrAddr : Word
  deriving DecidableEq, Repr

namespace Config

/-- DESIGN CHOICE, safe, log entry 2: `TRAP_LINKS_R7` is OPEN (D6). -/
opaque trapLinksR7 : Bool

/-- DESIGN CHOICE, safe, log entry 2: `TRAP_INPUT_SETS_CC` is OPEN (D7). -/
opaque trapInputSetsCC : Bool

/-- DESIGN CHOICE, safe, log entry 2: `INPUT_END` is OPEN (D8). -/
opaque inputEnd : InputEnd

/-- DESIGN CHOICE, safe, log entry 2: `IN_PROMPT` is OPEN (D9). -/
opaque inPrompt : List Byte

/-- DESIGN CHOICE, safe, log entry 4: `KBDR_READ`, the value of the k-th draw at `KBDR_ADDR`, any
16-bit value, fresh per read (R53, D12). -/
opaque kbdrDraw : Nat → Word

end Config

end Sys2Proof
end

