-- ==== Sys2Proof/Machine/Params.lean ====
section
/-! DEFINITION. The parameter values of the machine right after reset (R10). -/

namespace Sys2Proof.Machine

/-- PRESUMED by the spec itself (D11), unsafe, log entry 3: `KBSR_ADDR` is 0xFE00. -/
def kbsrDefault : Word := 0xFE00

/-- PRESUMED by the spec itself (D11), unsafe, log entry 3: `KBDR_ADDR` is 0xFE02. -/
def kbdrDefault : Word := 0xFE02

/-- R10: the open parameters at their opaque values (log entry 2), the keyboard addresses at the
spec's (log entry 3). -/
def initialParams : Params where
  trapLinksR7 := Config.trapLinksR7
  trapInputSetsCC := Config.trapInputSetsCC
  inputEnd := Config.inputEnd
  inPrompt := Config.inPrompt
  kbsrAddr := kbsrDefault
  kbdrAddr := kbdrDefault

end Sys2Proof.Machine
end

