-- ==== Sys2Proof/Machine/State.lean ====
section
/-! DEFINITION. The state of the block (R20), its console ports (R36, R37) and the model's own fields,
as plain data; the reasons a step can stop; the state after reset (R41). -/

namespace Sys2Proof.Machine

/-- R50: memory as the words that are not 0x0000, by word address, strictly rising (log entry 1). -/
abbrev Memory := List (Nat × Word)

/-- R21: the register file, eight 16-bit words. -/
structure RegFile where
  r0 : Word
  r1 : Word
  r2 : Word
  r3 : Word
  r4 : Word
  r5 : Word
  r6 : Word
  r7 : Word
  deriving DecidableEq, Repr

/-- R26: the Condition register holds exactly one of three flags. -/
inductive Cond where
  | negative | zero | positive
  deriving DecidableEq, Repr

/-- R30: the two states of the simulator; HALTED is terminal. -/
inductive RunState where
  | running | halted
  deriving DecidableEq, Repr

/-- R31: why the block is HALTED. -/
inductive HaltCause where
  /-- While RUNNING. -/
  | none
  /-- TRAP HALT, the clean halt. -/
  | haltTrap
  /-- Opcode 1000 or 1101. -/
  | illegalOpcode (op : BitVec 4)
  /-- TRAP with a vector outside the six. -/
  | badTrapVector (vec : Byte)
  deriving DecidableEq, Repr

/-- R20 and R34: the state of the block, its console ports, and last the model's own fields. -/
structure State where
  /-- R50: memory. -/
  mem : Memory
  /-- R21: R0..R7. -/
  regs : RegFile
  /-- R24: the program counter, a word address. -/
  pc : Word
  /-- R26: the Condition register. -/
  cond : Cond
  /-- R30. -/
  runState : RunState
  /-- R31. -/
  haltCause : HaltCause
  /-- R36: characters the host has supplied and no GETC or IN has taken, oldest first (log entry 5). -/
  input : List Byte
  /-- R36: the host has reported the end of its source (log entry 5). -/
  inputEnded : Bool
  /-- R211: a GETC or IN is held on its request for a character (log entry 6). -/
  inputRequested : Bool
  /-- R37: every byte output since initialisation, in program order (log entry 7). -/
  output : List Byte
  /-- The model's own, R10: the machine's parameters, which no step changes (log entry 2). -/
  params : Params
  /-- The model's own, R53: how many `KBDR_READ` draws have been taken (log entry 4). -/
  draws : Nat
  deriving DecidableEq, Repr

/-- Why a step stops with a fault. The block's own two faults (R240) are no such stop: they are next
states in which it is HALTED. -/
inductive Fault where
  /-- DEDUCED, safe, log entry 8. Raised by `step` alone, when the block is HALTED: it has no step
  (R30, R38). -/
  | halted
  deriving DecidableEq, Repr

/-- Why a step gives an instruction no meaning. -/
inductive Refusal where
  /-- Safe. Raised by no arm of `exec`: every instruction has its meaning. -/
  | notModelled (mnemonic : String)
  deriving DecidableEq, Repr

/-- R41, R270: after initialisation and before a load. The console fields and the model's own fields
take the values of log entries 2 to 7. -/
def State.reset : State where
  mem := []
  regs := { r0 := 0, r1 := 0, r2 := 0, r3 := 0, r4 := 0, r5 := 0, r6 := 0, r7 := 0 }
  pc := 0x3000
  cond := .zero
  runState := .running
  haltCause := .none
  input := []
  inputEnded := false
  inputRequested := false
  output := []
  params := initialParams
  draws := 0

end Sys2Proof.Machine
end

