-- ==== Sys2Proof/Machine/Ops.lean ====
section
/-! DEFINITION. The named operations over registers, memory, the fetch, the halt states and the
console ports. Every meaning is written over these. -/

namespace Sys2Proof.Machine

/-! ## General registers -/

/-- R21: the register a name selects. -/
def RegFile.get (f : RegFile) : Reg → Word
  | .R0 => f.r0
  | .R1 => f.r1
  | .R2 => f.r2
  | .R3 => f.r3
  | .R4 => f.r4
  | .R5 => f.r5
  | .R6 => f.r6
  | .R7 => f.r7

/-- R21: no register is hardwired, so a write is kept in every register. -/
def RegFile.set (f : RegFile) (r : Reg) (v : Word) : RegFile :=
  match r with
  | .R0 => { f with r0 := v }
  | .R1 => { f with r1 := v }
  | .R2 => { f with r2 := v }
  | .R3 => { f with r3 := v }
  | .R4 => { f with r4 := v }
  | .R5 => { f with r5 := v }
  | .R6 => { f with r6 := v }
  | .R7 => { f with r7 := v }

/-- R14: `R[i]`. -/
def State.reg (s : State) (r : Reg) : Word := s.regs.get r

/-- R14: `R[i] <- v`. -/
def State.setReg (s : State) (r : Reg) (v : Word) : State := { s with regs := s.regs.set r v }

/-- R14: `pc <- t`. -/
def State.setPc (s : State) (t : Word) : State := { s with pc := t }

/-! ## Memory -/

/-- R41: what a word that the list does not hold reads as. -/
def Memory.unlisted : Word := 0

/-- R50: the word at an address. -/
def Memory.read : Memory → Nat → Word
  | [], _ => Memory.unlisted
  | (b, w) :: rest, a => if a = b then w else Memory.read rest a

/-- The cell (a, v) before `rest`, left out where it would say what an unlisted address says. -/
def Memory.cons (a : Nat) (v : Word) (rest : Memory) : Memory :=
  if v = Memory.unlisted then rest else (a, v) :: rest

/-- R54: `mem[a] <- v`, keeping the list's canonical form. -/
def Memory.write : Memory → Nat → Word → Memory
  | [], a, v => Memory.cons a v []
  | (b, w) :: rest, a, v =>
    if a < b then Memory.cons a v ((b, w) :: rest)
    else if a = b then Memory.cons a v rest
    else (b, w) :: Memory.write rest a v

/-- The canonical form from address `lo` on: addresses strictly rising and within the 65,536 words,
no cell that says what an unlisted address says. -/
def Memory.wfFrom (lo : Nat) : Memory → Bool
  | [] => true
  | (a, v) :: rest =>
    decide (lo ≤ a) && decide (a < 65536) && decide (v ≠ Memory.unlisted) && Memory.wfFrom (a + 1) rest

/-- The canonical form of a memory: equal memories are equal lists. -/
def Memory.wf (m : Memory) : Bool := Memory.wfFrom 0 m

/-- R50: `mem[a]`, the stored word, whatever the keyboard stub says. -/
def State.memWord (s : State) (a : Word) : Word := s.mem.read a.toNat

/-- R53: the value `MemRead(a)` returns. The draw is the free value of log entry 4. -/
def State.memRead (s : State) (a : Word) : Word :=
  if a = s.params.kbsrAddr then 0x0000
  else if a = s.params.kbdrAddr then Config.kbdrDraw s.draws
  else s.memWord a

/-- R53: how many draws a `MemRead(a)` takes. -/
def State.drawsAt (s : State) (a : Word) : Nat :=
  if a = s.params.kbsrAddr then 0 else if a = s.params.kbdrAddr then 1 else 0

/-- R59: a read changes no architectural state; the model counts the draw it took. -/
def State.afterRead (s : State) (a : Word) : State := { s with draws := s.draws + s.drawsAt a }

/-- R54: `MemWrite(a, v)`, for every address, the keyboard addresses included. -/
def State.memWrite (s : State) (a v : Word) : State := { s with mem := s.mem.write a.toNat v }

/-! ## The fetch -/

/-- R38: the word the next step fetches, read through `MemRead` (D13). -/
def State.fetchWord (s : State) : Word := s.memRead s.pc

/-- R24, R38: the state in which the fetched instruction executes, the pc incremented modulo 2^16. -/
def State.fetched (s : State) : State := (s.afterRead s.pc).setPc (s.pc + 1)

/-- R211: the fetch taken back, for a step that is held before it has changed anything. -/
def State.unfetch (s : State) : State :=
  { s with pc := s.pc - 1, draws := s.draws - s.drawsAt (s.pc - 1) }

/-- R53: whether a fetch at `a` returns the stored word. -/
def State.fetchable (s : State) (a : Word) : Bool :=
  decide (a ≠ s.params.kbsrAddr) && decide (a ≠ s.params.kbdrAddr)

/-- The first address from the pc on whose stored word a fetch returns. -/
def State.fetchablePc (s : State) : Word :=
  if s.fetchable s.pc then s.pc
  else if s.fetchable (s.pc + 1) then s.pc + 1
  else s.pc + 2

/-! ## Halting and faults -/

/-- R208, R242: enter HALTED with a cause; nothing else is written. -/
def State.enterHalted (s : State) (cause : HaltCause) : State :=
  { s with runState := .halted, haltCause := cause }

/-- R242: `raise Fault(cause)`, the one operation that takes an exception. It saves nothing and goes to
no handler (R246); there is no return from it (R247). -/
def State.raise (s : State) (cause : HaltCause) : State := s.enterHalted cause

/-- R208: `Halt()`. -/
def State.haltClean (s : State) : State := s.enterHalted .haltTrap

/-- R201: `if TRAP_LINKS_R7 then R[7] <- pc`. -/
def State.linkTrap (s : State) : State :=
  s.setReg .R7 (if s.params.trapLinksR7 then s.pc else s.reg .R7)

/-! ## The console ports -/

/-- The low byte of a word, `w[7:0]`. -/
def lowByte (w : Word) : Byte := w.extractLsb' 0 8

/-- The high byte of a word, `w[15:8]`. -/
def highByte (w : Word) : Byte := w.extractLsb' 8 8

/-- R36: a character lands in a word as `zext_8(c)` (D8). -/
def zextByte (c : Byte) : Word := c.zeroExtend 16

/-- R37: `OutputByte` of each byte in order. -/
def State.outputBytes (s : State) (bs : List Byte) : State := { s with output := s.output ++ bs }

/-- R37: `OutputByte(b)`. -/
def State.outputByte (s : State) (b : Byte) : State := s.outputBytes [b]

/-- R36: the word `InputChar()` returns now; `none` while the step must be held. -/
def State.inputWord (s : State) : Option Word :=
  match s.input with
  | c :: _ => some (zextByte c)
  | [] =>
    if s.inputEnded then
      match s.params.inputEnd with
      | .value w => some w
      | .stuck => none
    else none

/-- R36: the port after `InputChar()` has returned. -/
def State.afterInput (s : State) : State :=
  { s with input := s.input.tail, inputRequested := false }

/-- DESIGN CHOICE, safe, log entry 6 (R38, R211): a held step. The fetch is taken back and the request
for a character stands; no register, flag or memory word has changed. -/
def State.hold (s : State) : State := { s.unfetch with inputRequested := true }

/-- R206, R211: IN's prompt, output before the wait, once for each IN. -/
def State.showPrompt (s : State) : State :=
  s.outputBytes (if s.inputRequested then [] else s.params.inPrompt)

/-- R36, R277: the host supplies a character. A source that has ended supplies no more (log entry 5). -/
def State.supplyInput (s : State) (c : Byte) : State :=
  { s with input := if s.inputEnded then s.input else s.input ++ [c] }

/-- R36, R277: the host reports the end of its source. -/
def State.endInput (s : State) : State := { s with inputEnded := true }

end Sys2Proof.Machine
end

