-- ==== Sys2Proof/Machine/Flags.lean ====
section
/-! DEFINITION. The Condition register: its update (R27), its one-hot value (R26) and the branch test
(R140). -/

namespace Sys2Proof.Machine

/-- R27: the flag that reflects a value. -/
def condOf (v : Word) : Cond :=
  if v = 0x0000 then .zero else if v.getLsbD 15 then .negative else .positive

/-- R27: `SetCC(v)`. -/
def State.setCC (s : State) (v : Word) : State := { s with cond := condOf v }

/-- R120 to R124, R160 to R163: write a result into R[DR] and set Condition from it. -/
def State.setResult (s : State) (dr : Reg) (v : Word) : State := (s.setReg dr v).setCC v

/-- R210: `if TRAP_INPUT_SETS_CC then SetCC(v)`. -/
def State.setCCInput (s : State) (v : Word) : State :=
  { s with cond := if s.params.trapInputSetsCC then condOf v else s.cond }

/-- R26: `cond_bits`. -/
def condBits : Cond → BitVec 3
  | .negative => 0b100
  | .zero => 0b010
  | .positive => 0b001

/-- R140, R141: the bit-test of the instruction's n, z, p bits against `cond_bits`. -/
def branchTaken (n z p : Bool) (c : Cond) : Bool :=
  decide ((BitVec.ofBool n ++ BitVec.ofBool z ++ BitVec.ofBool p) &&& condBits c ≠ 0)

end Sys2Proof.Machine
end

