-- ==== Sys2Proof/Machine/Operands.lean ====
section
/-! DEFINITION. Operand forms: the sign extensions of R94 and the effective addresses of R61. The pc
here is the incremented one (R24, R95). -/

namespace Sys2Proof.Machine

/-- R94: imm5 as a word, `sext_5`. -/
def sextImm5 (v : BitVec 5) : Word := v.signExtend 16

/-- R94: offset6 as a word, `sext_6`. -/
def sextOff6 (v : BitVec 6) : Word := v.signExtend 16

/-- R94: PCoffset9 as a word, `sext_9`. -/
def sextOff9 (v : BitVec 9) : Word := v.signExtend 16

/-- R94: PCoffset11 as a word, `sext_11`. -/
def sextOff11 (v : BitVec 11) : Word := v.signExtend 16

/-- R61, R95: `pc + sext_9(PCoffset9)`. -/
def State.pcRel9 (s : State) (off : BitVec 9) : Word := s.pc + sextOff9 off

/-- R61, R95: `pc + sext_11(PCoffset11)`. -/
def State.pcRel11 (s : State) (off : BitVec 11) : Word := s.pc + sextOff11 off

/-- R61: `R[BaseR] + sext_6(offset6)`. -/
def State.baseOff6 (s : State) (base : Reg) (off : BitVec 6) : Word := s.reg base + sextOff6 off

end Sys2Proof.Machine
end

