-- ==== Sys2Proof/Machine/Control.lean ====
section
/-! DEFINITION. BR, JMP, RET, JSR, JSRR (spec/41_control.md). No delay slots (R146). -/

namespace Sys2Proof.Machine

/-- R142: `pc <- R[BaseR]`. -/
def State.jumpTo (s : State) (base : Reg) : State := s.setPc (s.reg base)

/-- R140, R141. -/
def execBr (n z p : Bool) (off9 : BitVec 9) (s : State) : Host.Outcome State Fault Refusal :=
  .next (s.setPc (if branchTaken n z p s.cond then s.pcRel9 off9 else s.pc))

/-- R142. -/
def execJmp (base : Reg) (s : State) : Host.Outcome State Fault Refusal :=
  .next (s.jumpTo base)

/-- R143: JMP with BaseR = 7. -/
def execRet (s : State) : Host.Outcome State Fault Refusal :=
  .next (s.jumpTo .R7)

/-- R144: R7 first, then the pc; the offset's base is the incremented pc. -/
def execJsr (off11 : BitVec 11) (s : State) : Host.Outcome State Fault Refusal :=
  .next ((s.setReg .R7 s.pc).setPc (s.pcRel11 off11))

/-- R145: R7 is written before BaseR is read, so JSRR R7 continues at the next instruction. -/
def execJsrr (base : Reg) (s : State) : Host.Outcome State Fault Refusal :=
  .next ((s.setReg .R7 s.pc).jumpTo base)

end Sys2Proof.Machine
end

