-- ==== Sys2Proof/Machine/Load.lean ====
section
/-! DEFINITION. LD, LDI, LDR, LEA (spec/42_load.md). Every read goes through MemRead (R53). -/

namespace Sys2Proof.Machine

/-- R160, R162: read the word at `ea` into R[DR] and set Condition from it. -/
def State.loadFrom (s : State) (dr : Reg) (ea : Word) : State :=
  (s.afterRead ea).setResult dr (s.memRead ea)

/-- R160. -/
def execLd (dr : Reg) (off9 : BitVec 9) (s : State) : Host.Outcome State Fault Refusal :=
  .next (s.loadFrom dr (s.pcRel9 off9))

/-- R161: the second read is at the word the first one returned. -/
def execLdi (dr : Reg) (off9 : BitVec 9) (s : State) : Host.Outcome State Fault Refusal :=
  .next ((s.afterRead (s.pcRel9 off9)).loadFrom dr (s.memRead (s.pcRel9 off9)))

/-- R162: the base is read before the write of R[DR]. -/
def execLdr (dr base : Reg) (off6 : BitVec 6) (s : State) : Host.Outcome State Fault Refusal :=
  .next (s.loadFrom dr (s.baseOff6 base off6))

/-- R163: the address itself; no memory access. -/
def execLea (dr : Reg) (off9 : BitVec 9) (s : State) : Host.Outcome State Fault Refusal :=
  .next (s.setResult dr (s.pcRel9 off9))

end Sys2Proof.Machine
end

