-- ==== Sys2Proof/Machine/Reserved.lean ====
section
/-! DEFINITION. RTI and RES (spec/45_reserved.md): each takes the block's illegal-opcode fault. -/

namespace Sys2Proof.Machine

/-- R230. PRESUMED by the spec itself (D21), safe, log entry 18: the name RTI is opcode 1000. -/
def execRti (s : State) : Host.Outcome State Fault Refusal := .next (s.raise (.illegalOpcode 0x8))

/-- R231. PRESUMED by the spec itself (D21), safe, log entry 18: the name RES is opcode 1101. -/
def execRes (s : State) : Host.Outcome State Fault Refusal := .next (s.raise (.illegalOpcode 0xD))

end Sys2Proof.Machine
end

