-- ==== Sys2Proof/Machine/Store.lean ====
section
/-! DEFINITION. ST, STI, STR (spec/43_store.md). They never write Condition (R183; D2, log entry 12). -/

namespace Sys2Proof.Machine

/-- R180. -/
def execSt (sr : Reg) (off9 : BitVec 9) (s : State) : Host.Outcome State Fault Refusal :=
  .next (s.memWrite (s.pcRel9 off9) (s.reg sr))

/-- R181: the pointer is read through MemRead, then the word it holds is the address stored to. -/
def execSti (sr : Reg) (off9 : BitVec 9) (s : State) : Host.Outcome State Fault Refusal :=
  .next ((s.afterRead (s.pcRel9 off9)).memWrite (s.memRead (s.pcRel9 off9)) (s.reg sr))

/-- R182. -/
def execStr (sr base : Reg) (off6 : BitVec 6) (s : State) : Host.Outcome State Fault Refusal :=
  .next (s.memWrite (s.baseOff6 base off6) (s.reg sr))

end Sys2Proof.Machine
end

