-- ==== Sys2Proof/Machine/Trap.lean ====
section
/-! DEFINITION. TRAP and the six built-in services (spec/44_trap.md). A service runs within its TRAP's
step; R7 is linked first when TRAP_LINKS_R7 holds (R201, R245), except that a held step has changed no
register (R211). -/

namespace Sys2Proof.Machine

/-- R203: the effect of GETC. It does not echo. -/
def State.serviceGetc (s : State) : State :=
  match s.inputWord with
  | some c => (s.afterInput.linkTrap.setReg .R0 c).setCCInput c
  | none => s.hold

/-- R204: the low byte of R0. -/
def State.serviceOut (s : State) : State := s.linkTrap.outputByte (lowByte (s.reg .R0))

/-- R205: the byte a word of a PUTS string outputs (D10, log entry 13). -/
def putsBytes (w : Word) : List Byte := [lowByte w]

/-- R207: the bytes a word of a PUTSP string outputs, low byte first, a zero high byte omitted
(D10, log entry 13). -/
def putspBytes (w : Word) : List Byte :=
  if highByte w = 0 then [lowByte w] else [lowByte w, highByte w]

/-- R205, R207: the string walk from address `a`, at most `fuel` reads, through MemRead and wrapping
modulo 2^16 (D13, D14). -/
def State.walkString (bytesOf : Word → List Byte) : Nat → Word → State → State
  | 0, _, s => s
  | fuel + 1, a, s =>
    if s.memRead a = 0x0000 then s.afterRead a
    else
      State.walkString bytesOf fuel (a + 1) ((s.afterRead a).outputBytes (bytesOf (s.memRead a)))

/-- R209: a walk ends after at most this many reads, since it then has met `KBSR_ADDR`. -/
def walkFuel : Nat := 65536

/-- R205: the walk starts at R0, which the link of R7 does not change. -/
def State.servicePuts (s : State) : State :=
  State.walkString putsBytes walkFuel (s.reg .R0) s.linkTrap

/-- R207. -/
def State.servicePutsp (s : State) : State :=
  State.walkString putspBytes walkFuel (s.reg .R0) s.linkTrap

/-- R206: prompt, character, echo of its low byte, R0 (D9, log entry 13). -/
def State.serviceIn (s : State) : State :=
  match s.inputWord with
  | some c =>
    ((s.showPrompt.afterInput.linkTrap.outputByte (lowByte c)).setReg .R0 c).setCCInput c
  | none => s.showPrompt.hold

/-- R208. -/
def State.serviceHalt (s : State) : State := s.linkTrap.haltClean

/-- R200: the service run by its name. -/
def State.runService (s : State) : Service → State
  | .getc => s.serviceGetc
  | .out => s.serviceOut
  | .puts => s.servicePuts
  | .inChar => s.serviceIn
  | .putsp => s.servicePutsp
  | .halt => s.serviceHalt

/-- R200 to R202: TRAP with any vector; one outside the six raises BadTrapVector after the link. -/
def execTrap (vec : Byte) (s : State) : Host.Outcome State Fault Refusal :=
  match serviceOf vec with
  | some v => .next (s.runService v)
  | none => .next (s.linkTrap.raise (.badTrapVector vec))

/-- R203. -/
def execGetc (s : State) : Host.Outcome State Fault Refusal := .next s.serviceGetc

/-- R204. -/
def execOut (s : State) : Host.Outcome State Fault Refusal := .next s.serviceOut

/-- R205. -/
def execPuts (s : State) : Host.Outcome State Fault Refusal := .next s.servicePuts

/-- R206. -/
def execIn (s : State) : Host.Outcome State Fault Refusal := .next s.serviceIn

/-- R207. -/
def execPutsp (s : State) : Host.Outcome State Fault Refusal := .next s.servicePutsp

/-- R208. -/
def execHalt (s : State) : Host.Outcome State Fault Refusal := .next s.serviceHalt

end Sys2Proof.Machine
end

