-- ==== Sys2Proof/Machine/Loader.lean ====
section
/-! DEFINITION. The load of one object image before a run (R272 to R275; D16, log entry 16). -/

namespace Sys2Proof.Machine

/-- R272, R273: a word from its two bytes in an object file, the first byte being bits 15-8. -/
def wordOfBytes (hi lo : Byte) : Word := hi ++ lo

/-- R272, R275: the words of an image from address `a` on, big-endian, up to the end of the bytes or of
the address space; a last single byte is ignored. -/
def loadWords (a : Nat) : List Byte → Memory → Memory
  | hi :: lo :: rest, m =>
    if a ≤ 0xFFFF then loadWords (a + 1) rest (m.write a (wordOfBytes hi lo)) else m
  | _, m => m

/-- R272: `Load(b)`; `none` is the load error of a file shorter than two bytes, after which the block
does not run (R275). -/
def State.load (s : State) : List Byte → Option State
  | hi :: lo :: rest =>
    some { s with
      mem := loadWords (wordOfBytes hi lo).toNat rest s.mem
      pc := wordOfBytes hi lo }
  | _ => none

/-- R276: initialise the block, then load one object image. -/
def State.boot (image : List Byte) : Option State := State.reset.load image

/-- R273: the object file of an origin and its words: big-endian, in ascending address order. -/
def objectFile (origin : Word) (words : List Word) : List Byte :=
  (origin :: words).flatMap fun w => [highByte w, lowByte w]

end Sys2Proof.Machine
end

