-- ==== Sys2Proof/Machine/Step.lean ====
section
/-! DEFINITION. One step (R38) and the placing of one instruction where the next step fetches. -/

namespace Sys2Proof.Machine

/-- R38: fetch, increment, decode, execute; a HALTED block has no step (R30). -/
def step (s : State) : Host.Outcome State Fault Refusal :=
  match s.runState with
  | .running => exec (decode s.fetchWord) s.fetched
  | .halted => .fault .halted

/-- `s` with one instruction word placed where the next step fetches it (log entry 16). A pc at a
keyboard address fetches no stored word (R53), so the word and the pc go to the next address that is
none; a HALTED block fetches nothing (R30), so it is set RUNNING. -/
def State.withFetchWord (s : State) (nbits w : Nat) : State :=
  let a := s.fetchablePc
  { (s.memWrite a (BitVec.ofNat 16 (w % 2 ^ nbits))) with
    pc := a, runState := .running, haltCause := .none }

end Sys2Proof.Machine
end

