-- ==== Sys2Proof/Safety.lean ====
section
/-! DEFINITION. How a run ends (R39) and the invariants every step keeps: what claims call safe. -/

namespace Sys2Proof

/-- R36: the instructions that ask the console for a character. -/
def Instr.asksInput : Instr → Bool
  | .getc | .inChar => true
  | .trap vec => decide (vec = 0x20 ∨ vec = 0x23)
  | .addR _ _ _ | .addI _ _ _ | .andR _ _ _ | .andI _ _ _ | .not _ _ | .br _ _ _ _ | .jmp _ | .ret
  | .jsr _ | .jsrr _ | .ld _ _ | .ldi _ _ | .ldr _ _ _ | .lea _ _ | .st _ _ | .sti _ _ | .str _ _ _
  | .out | .puts | .putsp | .halt | .rti | .res => false

namespace Machine

/-- R240: the two fault causes. -/
def HaltCause.isFault : HaltCause → Bool
  | .illegalOpcode _ | .badTrapVector _ => true
  | .none | .haltTrap => false

/-- R39: the end of a run is the first HALTED state. -/
abbrev State.ended (s : State) : Prop := s.runState = .halted

/-- R39: a clean end. -/
abbrev State.cleanEnd (s : State) : Prop := s.ended ∧ s.haltCause = .haltTrap

/-- R39: a fault end. -/
abbrev State.faultEnd (s : State) : Prop := s.ended ∧ s.haltCause.isFault = true

/-- R31: `halt_cause` is None exactly while `run_state` is RUNNING. -/
abbrev State.CauseMatchesRun (s : State) : Prop := s.haltCause = .none ↔ s.runState = .running

/-- The invariant of the machine: memory in its canonical form, and R31. -/
abbrev State.Inv (s : State) : Prop := s.mem.wf = true ∧ s.CauseMatchesRun

/-- R211: a request for a character stands only while the instruction the next step fetches is one
that asks for it (log entry 6). -/
abbrev State.HeldInv (s : State) : Prop :=
  s.inputRequested = true → s.runState = .running ∧ (decode s.fetchWord).asksInput = true

/-- R36: no character can be returned now, so a GETC or IN is held. -/
abbrev State.noCharacter (s : State) : Prop :=
  s.input = [] ∧ (s.inputEnded = false ∨ s.params.inputEnd = .stuck)

end Machine

end Sys2Proof
end

