-- ==== Sys2Proof/Certificates/Slice0/Obligations.lean ====
section
/-! DEFINITION. The statements made of the model, from the numbered rules of the spec: decoding, the
step, every instruction's effect and frame, the faults, reset, the load, and the rules about the whole
machine. `s` is any state unless a premise says otherwise; a meaning runs in the state after the fetch,
so `s.pc` there is the incremented pc (R24, R38). -/

namespace Sys2Proof.Claims

open Sys2Proof.Machine

/-- R27: the flag reflects the value. -/
def Reflects (c : Cond) (v : Word) : Prop :=
  (c = .zero ↔ v = 0) ∧ (c = .negative ↔ v.getLsbD 15 = true) ∧
    (c = .positive ↔ v ≠ 0 ∧ v.getLsbD 15 = false)

/-- R12, R61: `v` is `base` plus the signed displacement `d`, modulo 2^16. -/
def IsSum (v base : Word) (d : Int) : Prop := (v.toNat : Int) = ((base.toNat : Int) + d) % 65536

/-- Run state, halt cause and parameters are as before. -/
def SameControl (s t : State) : Prop :=
  t.runState = s.runState ∧ t.haltCause = s.haltCause ∧ t.params = s.params

/-- The console input port is as before. -/
def SameInput (s t : State) : Prop :=
  t.input = s.input ∧ t.inputEnded = s.inputEnded ∧ t.inputRequested = s.inputRequested

/-- Both console ports are as before. -/
def SameConsole (s t : State) : Prop := SameInput s t ∧ t.output = s.output

/-- Every word of memory is as before. -/
def SameMemory (s t : State) : Prop := ∀ a, t.memWord a = s.memWord a

/-- Every register is as before but those listed. -/
def SameRegsBut (rs : List Reg) (s t : State) : Prop := ∀ r, r ∉ rs → t.reg r = s.reg r

/-- The frame of an instruction that writes R[DR] and Condition from it, and nothing else. -/
def WritesResult (dr : Reg) (s t : State) : Prop :=
  Reflects t.cond (t.reg dr) ∧ SameRegsBut [dr] s t ∧ t.pc = s.pc ∧ SameMemory s t ∧
    SameControl s t ∧ SameConsole s t

/-- The frame of a store of `v` at `ea`. -/
def WritesWord (ea v : Word) (s t : State) : Prop :=
  t.memWord ea = v ∧ (∀ a, a ≠ ea → t.memWord a = s.memWord a) ∧ SameRegsBut [] s t ∧
    t.pc = s.pc ∧ t.cond = s.cond ∧ SameControl s t ∧ SameConsole s t

/-- R201: what R7 holds after the linkage of TRAP. -/
def linkedR7 (s : State) : Word := if s.params.trapLinksR7 = true then s.pc else s.reg .R7

/-- The frame of a service that ends with its TRAP: R7 linked, the registers `rs` and the console
apart, nothing else changed. -/
def ServiceFrame (rs : List Reg) (s t : State) : Prop :=
  t.reg .R7 = linkedR7 s ∧ SameRegsBut (.R7 :: rs) s t ∧ t.pc = s.pc ∧ SameMemory s t ∧
    t.params = s.params

/-- R210: Condition after GETC or IN. -/
def InputCondition (s t : State) : Prop :=
  if s.params.trapInputSetsCC = true then Reflects t.cond (t.reg .R0) else t.cond = s.cond

/-- R23: the registers each instruction writes. -/
def registersWritten (links : Bool) : Instr → List Reg
  | .addR dr _ _ | .addI dr _ _ | .andR dr _ _ | .andI dr _ _ | .not dr _ => [dr]
  | .ld dr _ | .ldi dr _ | .ldr dr _ _ | .lea dr _ => [dr]
  | .jsr _ | .jsrr _ => [.R7]
  | .getc | .inChar => if links then [.R0, .R7] else [.R0]
  | .trap vec =>
    (if vec = 0x20 ∨ vec = 0x23 then [.R0] else []) ++ (if links then [.R7] else [])
  | .out | .puts | .putsp | .halt => if links then [.R7] else []
  | .br _ _ _ _ | .jmp _ | .ret | .st _ _ | .sti _ _ | .str _ _ _ | .rti | .res => []

/-- R28: the register whose new value sets Condition, for the seven instructions that write it. -/
def resultReg : Instr → Option Reg
  | .addR dr _ _ | .addI dr _ _ | .andR dr _ _ | .andI dr _ _ | .not dr _ => some dr
  | .ld dr _ | .ldi dr _ | .ldr dr _ _ | .lea dr _ => some dr
  | .br _ _ _ _ | .jmp _ | .ret | .jsr _ | .jsrr _ | .st _ _ | .sti _ _ | .str _ _ _ | .trap _
  | .getc | .out | .puts | .inChar | .putsp | .halt | .rti | .res => none

/-- R52: the address a store writes and the value it writes there. -/
def stored (s : State) : Instr → Option (Word × Word)
  | .st sr off => some (s.pcRel9 off, s.reg sr)
  | .sti sr off => some (s.memRead (s.pcRel9 off), s.reg sr)
  | .str sr base off => some (s.baseOff6 base off, s.reg sr)
  | .addR _ _ _ | .addI _ _ _ | .andR _ _ _ | .andI _ _ _ | .not _ _ | .br _ _ _ _ | .jmp _ | .ret
  | .jsr _ | .jsrr _ | .ld _ _ | .ldi _ _ | .ldr _ _ _ | .lea _ _ | .trap _ | .getc | .out | .puts
  | .inChar | .putsp | .halt | .rti | .res => none

/-- R140 to R145: the instructions that may set the pc. -/
def transfersControl : Instr → Bool
  | .br _ _ _ _ | .jmp _ | .ret | .jsr _ | .jsrr _ => true
  | .addR _ _ _ | .addI _ _ _ | .andR _ _ _ | .andI _ _ _ | .not _ _ | .ld _ _ | .ldi _ _ | .ldr _ _ _
  | .lea _ _ | .st _ _ | .sti _ _ | .str _ _ _ | .trap _ | .getc | .out | .puts | .inChar | .putsp
  | .halt | .rti | .res => false

/-- R37: the instructions that write the console output. -/
def writesOutput : Instr → Bool
  | .out | .puts | .inChar | .putsp => true
  | .trap vec => decide (0x21 ≤ vec.toNat ∧ vec.toNat ≤ 0x24)
  | .addR _ _ _ | .addI _ _ _ | .andR _ _ _ | .andI _ _ _ | .not _ _ | .br _ _ _ _ | .jmp _ | .ret
  | .jsr _ | .jsrr _ | .ld _ _ | .ldi _ _ | .ldr _ _ _ | .lea _ _ | .st _ _ | .sti _ _ | .str _ _ _
  | .getc | .halt | .rti | .res => false

/-- The word a string service reads `k` words after its start. -/
def stringWord (s : State) (k : Nat) : Word := s.memRead (s.reg .R0 + BitVec.ofNat 16 k)

/-- R205, R207: the string at R0 ends before word `n`, the first that reads as zero. -/
def StringEndsAt (s : State) (n : Nat) : Prop :=
  n < 65536 ∧ (∀ k, k < n → stringWord s k ≠ 0) ∧ stringWord s n = 0

/-- R207: the bytes of one packed word. -/
def packedBytes (w : Word) : List Byte :=
  if w.toNat / 256 = 0 then [BitVec.ofNat 8 w.toNat]
  else [BitVec.ofNat 8 w.toNat, BitVec.ofNat 8 (w.toNat / 256)]

/-- The number of a register field whose lowest bit is bit `lo` of `w`. -/
def IsRegField (r : Reg) (w : Word) (lo : Nat) : Prop := (regBits r).toNat = w.toNat / 2 ^ lo % 8

/-- R94: the signed reading of the lowest `n` bits of `w`. -/
def signedField (n : Nat) (w : Word) : Int :=
  if w.toNat % 2 ^ n < 2 ^ (n - 1) then ((w.toNat % 2 ^ n : Nat) : Int)
  else ((w.toNat % 2 ^ n : Nat) : Int) - 2 ^ n

end Sys2Proof.Claims

open Sys2Proof Sys2Proof.Machine Sys2Proof.Claims

/-! ## Encoding -/

/-- R100, R104: decoding the word of a well-formed instruction gives that instruction, at every
value of every operand. Where JSRR has its BaseR and the codes of five services are the spec's own
decisions D4 and D5 (log entries 11, 9); the rows RET and the services apart are log entry 17, the
words of RTI and RES log entry 19. -/
def Obligations.DecodeEncodeRoundTrip : Prop :=
  ∀ i : Instr, i.wellFormed = true → decode (encode i) = i

/-- R97, R100: every word decodes to a well-formed instruction, whose own word is the word read with
constants in the ignored bits: those the assembler writes, and for RTI and RES, of which the spec
gives no assembler word, zeros, the model's choice (log entry 19). That these bits are ignored is
the spec's own decision D3, JSRR's BaseR at bits 8-6 its decision D4, the service codes its decision
D5 (log entries 10, 11, 9), and the model's decoding of RET and the services by name is log entry
17. -/
def Obligations.EncodeDecodeIsCanonicalWord : Prop :=
  ∀ w : Word, (decode w).wellFormed = true ∧ encode (decode w) = canonicalWord w

/-- R81, R82: the instruction a word decodes to has the opcode that stands in bits 15-12 of the
word. Which reserved opcode is named RTI is the spec's own decision D21 (log entry 18). -/
def Obligations.DecodeRoutesByOpcode : Prop :=
  ∀ w : Word, (decode w).opcode.toNat = w.toNat / 4096

/-- R83, R84: the fields of ADD and AND; R85: those of NOT. That the bits between are not read is
the spec's own decision D3 (log entry 10). -/
def Obligations.OperateFormatFields : Prop :=
  ∀ w : Word,
    (w.toNat / 4096 = 0x1 → w.toNat / 32 % 2 = 0 → ∃ dr sr1 sr2, decode w = .addR dr sr1 sr2 ∧
      IsRegField dr w 9 ∧ IsRegField sr1 w 6 ∧ IsRegField sr2 w 0) ∧
    (w.toNat / 4096 = 0x5 → w.toNat / 32 % 2 = 0 → ∃ dr sr1 sr2, decode w = .andR dr sr1 sr2 ∧
      IsRegField dr w 9 ∧ IsRegField sr1 w 6 ∧ IsRegField sr2 w 0) ∧
    (w.toNat / 4096 = 0x1 → w.toNat / 32 % 2 = 1 → ∃ dr sr1 imm5, decode w = .addI dr sr1 imm5 ∧
      IsRegField dr w 9 ∧ IsRegField sr1 w 6 ∧ imm5.toInt = signedField 5 w) ∧
    (w.toNat / 4096 = 0x5 → w.toNat / 32 % 2 = 1 → ∃ dr sr1 imm5, decode w = .andI dr sr1 imm5 ∧
      IsRegField dr w 9 ∧ IsRegField sr1 w 6 ∧ imm5.toInt = signedField 5 w) ∧
    (w.toNat / 4096 = 0x9 → ∃ dr sr, decode w = .not dr sr ∧ IsRegField dr w 9 ∧ IsRegField sr w 6)

/-- R86: the fields of BR; R87: those of JMP and RET; R88: those of JSR; R89: those of JSRR. Ignored
bits and the place of JSRR's BaseR are the spec's own decisions D3 and D4 (log entries 10, 11); RET
by name is log entry 17. -/
def Obligations.ControlFormatFields : Prop :=
  ∀ w : Word,
    (w.toNat / 4096 = 0x0 → ∃ n z p off9, decode w = .br n z p off9 ∧
      (n = true ↔ w.toNat / 2048 % 2 = 1) ∧ (z = true ↔ w.toNat / 1024 % 2 = 1) ∧
      (p = true ↔ w.toNat / 512 % 2 = 1) ∧ off9.toInt = signedField 9 w) ∧
    (w.toNat / 4096 = 0xC → ∃ base, IsRegField base w 6 ∧
      decode w = if base = .R7 then .ret else .jmp base) ∧
    (w.toNat / 4096 = 0x4 → w.toNat / 2048 % 2 = 1 → ∃ off11, decode w = .jsr off11 ∧
      off11.toInt = signedField 11 w) ∧
    (w.toNat / 4096 = 0x4 → w.toNat / 2048 % 2 = 0 → ∃ base, decode w = .jsrr base ∧
      IsRegField base w 6)

/-- R90: the fields of the PC-relative memory form; R91: those of the base+offset form; R92: those
of TRAP, its six services decoded by name (R202); R93: the reserved opcodes. Ignored bits, service
codes and reserved names are the spec's own decisions D3, D5, D21 (log entries 10, 9, 18); the
services by name are log entry 17. -/
def Obligations.MemoryAndTrapFormatFields : Prop :=
  ∀ w : Word,
    (w.toNat / 4096 = 0x2 → ∃ dr off9, decode w = .ld dr off9 ∧ IsRegField dr w 9 ∧
      off9.toInt = signedField 9 w) ∧
    (w.toNat / 4096 = 0xA → ∃ dr off9, decode w = .ldi dr off9 ∧ IsRegField dr w 9 ∧
      off9.toInt = signedField 9 w) ∧
    (w.toNat / 4096 = 0xE → ∃ dr off9, decode w = .lea dr off9 ∧ IsRegField dr w 9 ∧
      off9.toInt = signedField 9 w) ∧
    (w.toNat / 4096 = 0x3 → ∃ sr off9, decode w = .st sr off9 ∧ IsRegField sr w 9 ∧
      off9.toInt = signedField 9 w) ∧
    (w.toNat / 4096 = 0xB → ∃ sr off9, decode w = .sti sr off9 ∧ IsRegField sr w 9 ∧
      off9.toInt = signedField 9 w) ∧
    (w.toNat / 4096 = 0x6 → ∃ dr base off6, decode w = .ldr dr base off6 ∧ IsRegField dr w 9 ∧
      IsRegField base w 6 ∧ off6.toInt = signedField 6 w) ∧
    (w.toNat / 4096 = 0x7 → ∃ sr base off6, decode w = .str sr base off6 ∧ IsRegField sr w 9 ∧
      IsRegField base w 6 ∧ off6.toInt = signedField 6 w) ∧
    (w.toNat / 4096 = 0xF → decode w =
      if w.toNat % 256 = 0x20 then .getc else if w.toNat % 256 = 0x21 then .out
      else if w.toNat % 256 = 0x22 then .puts else if w.toNat % 256 = 0x23 then .inChar
      else if w.toNat % 256 = 0x24 then .putsp else if w.toNat % 256 = 0x25 then .halt
      else .trap (BitVec.ofNat 8 w.toNat)) ∧
    (w.toNat / 4096 = 0x8 → decode w = .rti) ∧ (w.toNat / 4096 = 0xD → decode w = .res)

/-- R97: changing ignored bits changes no decoding: bits 4-3 of ADD and AND in register form; bits
5-0 of NOT; bits 11-9 and 5-0 of JMP; bits 10-9 and 5-0 of JSRR; bits 11-8 of TRAP; bits 11-0 of the
reserved opcodes. This is the spec's own decision D3, with D4 for the bits of JSRR (log entries 10,
11). -/
def Obligations.IgnoredBitsChangeNothing : Prop :=
  ∀ w m : Word,
    ((w.toNat / 4096 = 0x1 ∨ w.toNat / 4096 = 0x5) ∧ w.getLsbD 5 = false ∧ m &&& 0xFFE7 = 0) ∨
    (w.toNat / 4096 = 0x9 ∧ m &&& 0xFFC0 = 0) ∨
    (w.toNat / 4096 = 0xC ∧ m &&& 0xF1C0 = 0) ∨
    (w.toNat / 4096 = 0x4 ∧ w.getLsbD 11 = false ∧ m &&& 0xF9C0 = 0) ∨
    (w.toNat / 4096 = 0xF ∧ m &&& 0xF0FF = 0) ∨
    ((w.toNat / 4096 = 0x8 ∨ w.toNat / 4096 = 0xD) ∧ m &&& 0xF000 = 0) →
    decode (w ^^^ m) = decode w

/-- R100, R104: words written out from the spec's encodings decode to what they stand for, one of
each family (HALT's code is the source's; RES is 1101 by the spec's own decision D21, log entry 18;
RET by name is log entry 17). -/
def Obligations.SampleWordsDecode : Prop :=
  decode 0x1AC6 = .addR .R5 .R3 .R6 ∧ decode 0x5270 = .andI .R1 .R1 0b10000 ∧
    decode 0x993F = .not .R4 .R4 ∧ decode 0x0605 = .br false true true 5 ∧ decode 0xC1C0 = .ret ∧
    decode 0xA405 = .ldi .R2 5 ∧ decode 0x7A9F = .str .R5 .R2 31 ∧ decode 0xF025 = .halt ∧
    decode 0xD000 = .res

/-! ## The step -/

/-- R38: a step of a RUNNING block reads the word at the pc through MemRead, increments the pc
modulo 2^16 and runs the decoded instruction; the fetch changes nothing else (but the model's count
of draws, log entry 4), and where no keyboard register stands the word read is the stored one. That
the fetch uses MemRead is the spec's own decision D13 (log entry 14). -/
def Obligations.StepRunsDecodedInstruction : Prop :=
  ∀ s : State, s.runState = .running →
    step s = exec (decode (s.memRead s.pc)) s.fetched ∧
    (∃ k, s.fetched = { s with pc := s.pc + 1, draws := k }) ∧
    (s.pc ≠ s.params.kbsrAddr → s.pc ≠ s.params.kbdrAddr →
      step s = exec (decode (s.memWord s.pc)) { s with pc := s.pc + 1 })

/-- R30: a HALTED block performs no step; the model answers the fault halted (log entry 8). -/
def Obligations.HaltedBlockHasNoStep : Prop :=
  ∀ s : State, s.runState = .halted → ∀ t, step s ≠ .next t

/-- R98, R240, R241: a step of a RUNNING block always completes, and it halts the block exactly on
the two reserved opcodes, on a trap vector outside the six and on HALT, recording the cause. The
codes of five services and the record of the cause are the spec's own decisions D5 and D15 (log
entries 9, 15); a step that waits for input counts as completed here (log entry 6). -/
def Obligations.StepHaltsExactlyOnFaultsAndHalt : Prop :=
  ∀ s : State, s.runState = .running → s.haltCause = .none →
    ∃ t, step s = .next t ∧ (t.runState = .running ↔ t.haltCause = .none) ∧
      t.haltCause =
        if s.fetchWord.toNat / 4096 = 0x8 ∨ s.fetchWord.toNat / 4096 = 0xD then
          .illegalOpcode (BitVec.ofNat 4 (s.fetchWord.toNat / 4096))
        else if s.fetchWord.toNat / 4096 = 0xF ∧
            (s.fetchWord.toNat % 256 < 0x20 ∨ 0x25 < s.fetchWord.toNat % 256) then
          .badTrapVector (BitVec.ofNat 8 s.fetchWord.toNat)
        else if s.fetchWord.toNat / 4096 = 0xF ∧ s.fetchWord.toNat % 256 = 0x25 then .haltTrap
        else .none

/-- R243, which the spec derives: a step that faults has changed nothing but the fetch's pc
increment, the run state and cause, and R7 for a TRAP under TRAP_LINKS_R7 (the spec's own decisions
D6 and D15, log entries 2, 15). -/
def Obligations.FaultsArePrecise : Prop :=
  ∀ s t : State, s.haltCause = .none → step s = .next t → t.haltCause.isFault = true →
    t.pc = s.pc + 1 ∧ SameMemory s t ∧ t.cond = s.cond ∧ SameRegsBut [.R7] s t ∧
    t.reg .R7 = (if s.fetchWord.toNat / 4096 = 0xF ∧ s.params.trapLinksR7 = true then s.pc + 1
      else s.reg .R7) ∧
    SameConsole s t ∧ t.params = s.params

/-- R31 (the spec's own record of the cause, D15, log entry 15), and the canonical form of memory
(the model's choice, log entry 1): every step keeps the invariant, from every state that has it. -/
def Obligations.StepKeepsInvariant : Prop :=
  ∀ s t : State, s.Inv → step s = .next t → t.Inv

/-- R211, in the model's form of a held step (log entry 6): every step keeps it that a request for a
character stands only while the block is RUNNING and the next fetch is of an instruction that asks
for one. The fetch is read through MemRead (D13, log entries 14, 4). -/
def Obligations.StepKeepsHeldRequest : Prop :=
  ∀ s t : State, s.HeldInv → step s = .next t → t.HeldInv

/-- R41: the state after reset has both invariants; its console fields and memory's form are the
model's choices (log entries 1, 5, 6), the record of the cause is the spec's own decision D15 (log
entry 15). -/
def Obligations.ResetHasInvariants : Prop :=
  State.reset.Inv ∧ State.reset.HeldInv

/-- R41, R270, R272, R275: the values after initialisation, and those after a successful load of an
object image. That words past 0xFFFF are not loaded and do not wrap is the spec's own decision D16
(log entry 16); the record of the halt cause is D15 (log entry 15). -/
def Obligations.ResetAndLoadValues : Prop :=
  ((∀ a, State.reset.memWord a = 0x0000) ∧ (∀ r, State.reset.reg r = 0x0000) ∧
    State.reset.pc = 0x3000 ∧ State.reset.cond = .zero ∧ State.reset.runState = .running ∧
    State.reset.haltCause = .none) ∧
  ∀ (origin : Word) (words : List Word), ∃ t, State.boot (objectFile origin words) = some t ∧
    (∀ a : Word, t.memWord a =
      if a.toNat < origin.toNat then 0x0000 else (words[a.toNat - origin.toNat]?).getD 0x0000) ∧
    (∀ r, t.reg r = 0x0000) ∧ t.pc = origin ∧ t.cond = .zero ∧ t.runState = .running ∧
    t.haltCause = .none

/-! ## Rules about the whole machine -/

/-- R23, which the spec derives: every register but those the table lists for the instruction is
unchanged, for both values of TRAP_LINKS_R7 (D6, log entry 2). It is the register frame of all 26
instructions. -/
def Obligations.RegistersWrittenByInstruction : Prop :=
  ∀ (i : Instr) (s t : State), exec i s = .next t →
    SameRegsBut (registersWritten s.params.trapLinksR7 i) s t

/-- R28, R183, R210: the writers of Condition, and what they write there. That stores, JSR and JSRR
write none is the spec's own decision D2 and its resolution of C1 (log entry 12), and for GETC and
IN both values of TRAP_INPUT_SETS_CC are open (D7, log entry 2). -/
def Obligations.ConditionWriters : Prop :=
  ∀ (i : Instr) (s t : State), exec i s = .next t →
    (∀ dr, resultReg i = some dr → Reflects t.cond (t.reg dr)) ∧
    (i.asksInput = true → ¬ s.noCharacter → InputCondition s t) ∧
    (i.asksInput = true → s.noCharacter → t.cond = s.cond) ∧
    (i.asksInput = false → resultReg i = none → t.cond = s.cond)

/-- R29, which the spec derives: no instruction but BR reads Condition: with another flag it does
the same to everything else, and what it leaves in Condition is the same unless it leaves Condition
alone. -/
def Obligations.OnlyBranchReadsCondition : Prop :=
  ∀ (i : Instr) (s t : State) (c : Cond), (∀ n z p off9, i ≠ .br n z p off9) → exec i s = .next t →
    ∃ u, exec i { s with cond := c } = .next u ∧ u = { t with cond := u.cond } ∧
      (u.cond = t.cond ∨ (u.cond = c ∧ t.cond = s.cond))

/-- R52, R54 (the first derived by the spec, the second resting on its decision D12, log entry 14;
that STI's pointer is read through MemRead is D13, log entries 14, 4): memory changes only at the
address ST, STI or STR stores to, and there it holds the stored word. It is the memory frame of all
26 instructions. -/
def Obligations.MemoryWrittenOnlyByStores : Prop :=
  ∀ (i : Instr) (s t : State), s.mem.wf = true → exec i s = .next t →
    (stored s i = none → SameMemory s t) ∧
    (∀ ea v, stored s i = some (ea, v) →
      t.memWord ea = v ∧ ∀ a, a ≠ ea → t.memWord a = s.memWord a)

/-- R24: an instruction that does not transfer control leaves the pc at the incremented value; a
GETC or IN held by R211 has not completed, and the model leaves its pc at the TRAP (log entry 6). -/
def Obligations.PcAdvancesWithoutTransfer : Prop :=
  ∀ s t : State, step s = .next t → transfersControl (decode s.fetchWord) = false →
    t.pc = s.pc + 1 ∨
      ((decode s.fetchWord).asksInput = true ∧ s.noCharacter ∧ t.pc = s.pc)

/-- R67, which the spec derives: a word stored at the address fetched next, where no keyboard
register stands, is the word that fetch reads. That the fetch uses MemRead is the spec's own
decision D13 (log entry 14). -/
def Obligations.StoreSeenByNextFetch : Prop :=
  ∀ (i : Instr) (s t : State) (v : Word), s.mem.wf = true → exec i s = .next t →
    stored s i = some (s.pc, v) → s.pc ≠ s.params.kbsrAddr → s.pc ≠ s.params.kbdrAddr →
    t.fetchWord = v

/-- R53, R54, R63: a read after a write. That KBSR reads 0x0000 and KBDR a draw is the spec's own
decision D12 (log entry 14); the value at KBDR_ADDR is a free value, so this holds whatever it is
(log entry 4). -/
def Obligations.ReadAfterWrite : Prop :=
  ∀ (s : State) (a v b : Word), s.mem.wf = true →
    (s.memWrite a v).memRead b =
      if b = s.params.kbsrAddr then 0x0000
      else if b = s.params.kbdrAddr then Config.kbdrDraw s.draws
      else if b = a then v
      else s.memWord b

/-- R53, R59: a read changes nothing but, at KBDR_ADDR, the model's count of draws (log entry 4), so
that the next read there is another draw (the spec's own decision D12). -/
def Obligations.ReadTakesFreshDraw : Prop :=
  ∀ (s : State) (a : Word),
    s.afterRead a = { s with draws := (s.afterRead a).draws } ∧
    (a ≠ s.params.kbdrAddr → s.afterRead a = s) ∧
    (a = s.params.kbdrAddr → a ≠ s.params.kbsrAddr →
      (s.afterRead a).memRead a = Config.kbdrDraw (s.draws + 1))

/-- R50, in the model's form of memory (log entry 1): in its canonical form, memory is determined by
what its 65,536 words read as. -/
def Obligations.MemoryDeterminedByReads : Prop :=
  ∀ m n : Memory, m.wf = true → n.wf = true → (∀ a : Word, m.read a.toNat = n.read a.toNat) → m = n

/-- R36, R277, in the model's form of the input port (log entry 5): a step changes neither the
parameters nor the host's end of the input, and only an instruction that asks for a character takes
one, the oldest. -/
def Obligations.InputTakenOnlyByGetcAndIn : Prop :=
  ∀ s t : State, step s = .next t →
    t.params = s.params ∧ t.inputEnded = s.inputEnded ∧
    (t.input = s.input ∨ ((decode s.fetchWord).asksInput = true ∧ ∃ c, s.input = c :: t.input))

/-- R37, in the model's form of the output port (log entry 7): output is only appended to, and only
by OUT, PUTS, IN and PUTSP. -/
def Obligations.OutputAppendedOnlyByServices : Prop :=
  ∀ s t : State, step s = .next t →
    (∃ bs, t.output = s.output ++ bs) ∧
    (writesOutput (decode s.fetchWord) = false → t.output = s.output)

/-- R61, R94, R95: the effective addresses are sums modulo 2^16 of the base and the signed offset.
-/
def Obligations.EffectiveAddressesWrap : Prop :=
  ∀ s : State,
    (∀ off, IsSum (s.pcRel9 off) s.pc off.toInt) ∧ (∀ off, IsSum (s.pcRel11 off) s.pc off.toInt) ∧
    (∀ base off, IsSum (s.baseOff6 base off) (s.reg base) off.toInt)

/-! ## Operate instructions -/

/-- R120: ADD, register form, with what it leaves unchanged. -/
def Obligations.AddRegisterForm : Prop :=
  ∀ (dr sr1 sr2 : Reg) (s : State), ∃ t, exec (.addR dr sr1 sr2) s = .next t ∧
    (t.reg dr).toNat = ((s.reg sr1).toNat + (s.reg sr2).toNat) % 65536 ∧ WritesResult dr s t

/-- R121: ADD, immediate form, with what it leaves unchanged. -/
def Obligations.AddImmediateForm : Prop :=
  ∀ (dr sr1 : Reg) (imm5 : BitVec 5) (s : State), ∃ t, exec (.addI dr sr1 imm5) s = .next t ∧
    IsSum (t.reg dr) (s.reg sr1) imm5.toInt ∧ WritesResult dr s t

/-- R122: AND, register form, with what it leaves unchanged. -/
def Obligations.AndRegisterForm : Prop :=
  ∀ (dr sr1 sr2 : Reg) (s : State), ∃ t, exec (.andR dr sr1 sr2) s = .next t ∧
    (∀ k, k < 16 →
      (t.reg dr).getLsbD k = ((s.reg sr1).getLsbD k && (s.reg sr2).getLsbD k)) ∧
    WritesResult dr s t

/-- R123: AND, immediate form: bits 15-4 of the immediate are copies of its bit 4; with what it
leaves unchanged. -/
def Obligations.AndImmediateForm : Prop :=
  ∀ (dr sr1 : Reg) (imm5 : BitVec 5) (s : State), ∃ t, exec (.andI dr sr1 imm5) s = .next t ∧
    (∀ k, k < 16 →
      (t.reg dr).getLsbD k = ((s.reg sr1).getLsbD k && imm5.getLsbD (min k 4))) ∧
    WritesResult dr s t

/-- R124: NOT, with what it leaves unchanged. -/
def Obligations.NotComplementsWord : Prop :=
  ∀ (dr sr : Reg) (s : State), ∃ t, exec (.not dr sr) s = .next t ∧
    (t.reg dr).toNat = 65535 - (s.reg sr).toNat ∧ WritesResult dr s t

/-! ## Control transfer -/

/-- R140, R141: BR branches exactly when the flag that Condition holds is among its n, z, p bits,
and writes nothing but the pc. -/
def Obligations.BranchTestsFlagBits : Prop :=
  ∀ (n z p : Bool) (off9 : BitVec 9) (s : State), ∃ t, exec (.br n z p off9) s = .next t ∧
    (if (n = true ∧ s.cond = .negative) ∨ (z = true ∧ s.cond = .zero) ∨
        (p = true ∧ s.cond = .positive)
      then IsSum t.pc s.pc off9.toInt else t.pc = s.pc) ∧
    t = { s with pc := t.pc }

/-- R142, R143: JMP sets the pc to R[BaseR] and writes nothing else; RET is JMP with BaseR = 7. -/
def Obligations.JumpThroughRegister : Prop :=
  (∀ (base : Reg) (s : State), ∃ t, exec (.jmp base) s = .next t ∧ t.pc = s.reg base ∧
    t = { s with pc := t.pc }) ∧
  (∀ s : State, ∃ t, exec .ret s = .next t ∧ exec (.jmp .R7) s = .next t ∧ t.pc = s.reg .R7 ∧
    t = { s with pc := t.pc })

/-- R144: JSR links R7 and jumps relative to the same incremented pc; everything else is unchanged.
That Condition is kept follows the spec's resolution of its conflict C1 (log entry 12). -/
def Obligations.JsrLinksThenJumps : Prop :=
  ∀ (off11 : BitVec 11) (s : State), ∃ t, exec (.jsr off11) s = .next t ∧ t.reg .R7 = s.pc ∧
    IsSum t.pc s.pc off11.toInt ∧ SameRegsBut [.R7] s t ∧
    t = { s with pc := t.pc, regs := t.regs }

/-- R145: JSRR writes R7 before it reads BaseR, so JSRR R7 continues at the next instruction;
everything else is unchanged. That Condition is kept follows the spec's resolution of its conflict
C1 (log entry 12). -/
def Obligations.JsrrLinksBeforeReadingBase : Prop :=
  ∀ (base : Reg) (s : State), ∃ t, exec (.jsrr base) s = .next t ∧ t.reg .R7 = s.pc ∧
    t.pc = (if base = .R7 then s.pc else s.reg base) ∧ SameRegsBut [.R7] s t ∧
    t = { s with pc := t.pc, regs := t.regs }

/-! ## Loads -/

/-- R160: LD, with what it leaves unchanged. That it reads through MemRead is the spec's own
decision D13, what it returns at the keyboard addresses is D12 (log entries 14, 4). -/
def Obligations.LdLoadsPcRelative : Prop :=
  ∀ (dr : Reg) (off9 : BitVec 9) (ea : Word) (s : State), IsSum ea s.pc off9.toInt →
    ∃ t, exec (.ld dr off9) s = .next t ∧ t.reg dr = s.memRead ea ∧ WritesResult dr s t

/-- R161: LDI: the second read is at the word the first read returned; with what it leaves
unchanged. That both go through MemRead is the spec's own decision D13, what it returns at the
keyboard addresses is D12 (log entries 14, 4). -/
def Obligations.LdiLoadsIndirect : Prop :=
  ∀ (dr : Reg) (off9 : BitVec 9) (ptr : Word) (s : State), IsSum ptr s.pc off9.toInt →
    ∃ t, exec (.ldi dr off9) s = .next t ∧
      t.reg dr = (s.afterRead ptr).memRead (s.memRead ptr) ∧ WritesResult dr s t

/-- R162: LDR; the base is read before R[DR] is written; with what it leaves unchanged. That it
reads through MemRead is the spec's own decision D13, what it returns at the keyboard addresses is
D12 (log entries 14, 4). -/
def Obligations.LdrLoadsBaseOffset : Prop :=
  ∀ (dr base : Reg) (off6 : BitVec 6) (ea : Word) (s : State), IsSum ea (s.reg base) off6.toInt →
    ∃ t, exec (.ldr dr base off6) s = .next t ∧ t.reg dr = s.memRead ea ∧ WritesResult dr s t

/-- R163: LEA: the address itself, no memory access (no draw is taken); with what it leaves
unchanged. -/
def Obligations.LeaLoadsAddress : Prop :=
  ∀ (dr : Reg) (off9 : BitVec 9) (s : State), ∃ t, exec (.lea dr off9) s = .next t ∧
    IsSum (t.reg dr) s.pc off9.toInt ∧ WritesResult dr s t ∧ t.draws = s.draws

/-! ## Stores -/

/-- R180: ST, with its frame. The premise is memory's canonical form (log entry 1). That Condition
is kept is the spec's own decision D2 (log entry 12). -/
def Obligations.StStoresPcRelative : Prop :=
  ∀ (sr : Reg) (off9 : BitVec 9) (s : State), s.mem.wf = true →
    ∃ t, exec (.st sr off9) s = .next t ∧ WritesWord (s.pcRel9 off9) (s.reg sr) s t

/-- R181: STI, with its frame: the pointer is read through MemRead, the spec's own decisions D12 and
D13 (log entries 14, 4). The premise is memory's canonical form (log entry 1). That Condition is
kept is its decision D2 (log entry 12). -/
def Obligations.StiStoresIndirect : Prop :=
  ∀ (sr : Reg) (off9 : BitVec 9) (s : State), s.mem.wf = true →
    ∃ t, exec (.sti sr off9) s = .next t ∧ WritesWord (s.memRead (s.pcRel9 off9)) (s.reg sr) s t

/-- R182: STR, with its frame. The premise is memory's canonical form (log entry 1). That Condition
is kept is the spec's own decision D2 (log entry 12). -/
def Obligations.StrStoresBaseOffset : Prop :=
  ∀ (sr base : Reg) (off6 : BitVec 6) (s : State), s.mem.wf = true →
    ∃ t, exec (.str sr base off6) s = .next t ∧ WritesWord (s.baseOff6 base off6) (s.reg sr) s t

/-! ## TRAP and the services -/

/-- R200, R202: TRAP with one of the six vectors is the service of the table; with any other it
takes the fault BadTrapVector after the linkage of R7, and changes nothing else. The codes of five
services, the linkage and the state after the fault are the spec's own decisions D5, D6, D15 (log
entries 9, 2, 15). -/
def Obligations.TrapSelectsService : Prop :=
  ∀ (vec : Byte) (s : State), ∃ t, exec (.trap vec) s = .next t ∧
    (vec = 0x20 → exec .getc s = .next t) ∧ (vec = 0x21 → exec .out s = .next t) ∧
    (vec = 0x22 → exec .puts s = .next t) ∧ (vec = 0x23 → exec .inChar s = .next t) ∧
    (vec = 0x24 → exec .putsp s = .next t) ∧ (vec = 0x25 → exec .halt s = .next t) ∧
    (vec.toNat < 0x20 ∨ 0x25 < vec.toNat →
      t.runState = .halted ∧ t.haltCause = .badTrapVector vec ∧ ServiceFrame [] s t ∧
      t.cond = s.cond ∧ SameConsole s t)

/-- R203, R36, R210: GETC takes the oldest character the host has supplied into R0, without echo.
The character's zero extension and the two parameters are the spec's own D8, D6, D7 (log entries 13,
2); the queue is log entry 5, the request log entry 6. -/
def Obligations.GetcReadsCharacter : Prop :=
  ∀ (s : State) (c : Byte) (rest : List Byte), s.input = c :: rest →
    ∃ t, exec .getc s = .next t ∧ (t.reg .R0).toNat = c.toNat ∧ ServiceFrame [.R0] s t ∧
      InputCondition s t ∧ t.input = rest ∧ t.inputEnded = s.inputEnded ∧
      t.inputRequested = false ∧ t.output = s.output ∧ SameControl s t

/-- R204: OUT outputs the low byte of R0 (R7 under the open parameter of D6, log entry 2; the output
as a list is log entry 7). -/
def Obligations.OutWritesLowByte : Prop :=
  ∀ s : State, ∃ t, exec .out s = .next t ∧
    t.output = s.output ++ [BitVec.ofNat 8 (s.reg .R0).toNat] ∧ ServiceFrame [] s t ∧
    t.cond = s.cond ∧ SameInput s t ∧ SameControl s t

/-- R205: PUTS outputs the low byte of each word before the first that reads as zero. The byte, the
read path and the wrap are the spec's own decisions D10, D13, D14 (log entries 13, 14), R7 is under
the open parameter of D6 (log entry 2). -/
def Obligations.PutsWritesString : Prop :=
  ∀ (s : State) (n : Nat), StringEndsAt s n →
    ∃ t, exec .puts s = .next t ∧
      t.output = s.output ++ (List.range n).map (fun k => BitVec.ofNat 8 (stringWord s k).toNat) ∧
      ServiceFrame [] s t ∧ t.cond = s.cond ∧ SameInput s t ∧ SameControl s t

/-- R206, R36, R210: IN outputs its prompt, unless it was held and has shown it (R211), takes a
character into R0 and echoes it. That it writes R0 and the prompt is the spec's own decision D9 (log
entries 13, 2), the hold log entry 6, the queue log entry 5. -/
def Obligations.InEchoesCharacter : Prop :=
  ∀ (s : State) (c : Byte) (rest : List Byte), s.input = c :: rest →
    ∃ t, exec .inChar s = .next t ∧ (t.reg .R0).toNat = c.toNat ∧ ServiceFrame [.R0] s t ∧
      InputCondition s t ∧ t.input = rest ∧ t.inputEnded = s.inputEnded ∧
      t.inputRequested = false ∧ SameControl s t ∧
      t.output = s.output ++ (if s.inputRequested = true then [] else s.params.inPrompt) ++ [c]

/-- R207: PUTSP outputs the low byte and then, unless zero, the high byte of each word before the
first that reads as zero. The bytes, the read path and the wrap are the spec's own decisions D10,
D13, D14 (log entries 13, 14), R7 is under the open parameter of D6 (log entry 2). -/
def Obligations.PutspWritesPackedString : Prop :=
  ∀ (s : State) (n : Nat), StringEndsAt s n →
    ∃ t, exec .putsp s = .next t ∧
      t.output = s.output ++ (List.range n).flatMap (fun k => packedBytes (stringWord s k)) ∧
      ServiceFrame [] s t ∧ t.cond = s.cond ∧ SameInput s t ∧ SameControl s t

/-- R208: HALT enters HALTED with the clean cause; the pc stays at the TRAP's address plus 1; no
step follows. The record and the silence on the console are the spec's own decisions D15, D20 (log
entry 15), R7 is under the open parameter of D6 (log entry 2). -/
def Obligations.HaltStopsCleanly : Prop :=
  ∀ s : State, ∃ t, exec .halt s = .next t ∧ t.runState = .halted ∧ t.haltCause = .haltTrap ∧
    ServiceFrame [] s t ∧ t.cond = s.cond ∧ SameConsole s t ∧ ∀ u, step t ≠ .next u

/-- R209: every string walk meets a word that reads as zero within 65,536 reads, so PUTS and PUTSP
complete in every state, whatever the draw at KBDR_ADDR is. It rests on the spec's own decisions
D12, D13 and D14 (log entries 14, 4). -/
def Obligations.StringWalksEnd : Prop :=
  ∀ s : State, ∃ n, StringEndsAt s n

/-- R36: at the end of the input under `INPUT_END` = Value(w), GETC and IN return w (D8 leaves the
parameter open, log entry 2; the end of the input as a field is log entry 5). That IN writes R0,
echoes the low byte and shows a prompt is the spec's own decision D9 (log entries 13, 2); that a
held IN shows no second prompt is R211 in the model's form (log entry 6); R7 and Condition are under
the open parameters of D6 and D7 (log entry 2). -/
def Obligations.EndOfInputGivesParameter : Prop :=
  ∀ (s : State) (w : Word), s.input = [] → s.inputEnded = true → s.params.inputEnd = .value w →
    (∃ t, exec .getc s = .next t ∧ t.reg .R0 = w ∧ ServiceFrame [.R0] s t ∧ InputCondition s t ∧
      t.input = [] ∧ t.output = s.output ∧ SameControl s t) ∧
    (∃ t, exec .inChar s = .next t ∧ t.reg .R0 = w ∧ ServiceFrame [.R0] s t ∧ InputCondition s t ∧
      t.input = [] ∧ SameControl s t ∧
      t.output = s.output ++ (if s.inputRequested = true then [] else s.params.inPrompt) ++
        [BitVec.ofNat 8 w.toNat])

/-- R211, in the model's form of a held step and of the input port (log entries 6, 5): while no
character can be returned, a step of a GETC or IN changes no register, flag or memory word and not
the pc; an IN has shown its prompt once. The prompt and the stuck end of the input are under the
open parameters of D9 and D8 (log entry 2). -/
def Obligations.InputWaitHoldsStep : Prop :=
  ∀ s : State, s.runState = .running → s.noCharacter →
    (decode s.fetchWord = .getc → step s = .next { s with inputRequested := true }) ∧
    (decode s.fetchWord = .inChar → step s = .next { s with
      inputRequested := true
      output := s.output ++ (if s.inputRequested = true then [] else s.params.inPrompt) })

/-- R211, in the model's form of a held step and of the input port (log entries 6, 5): once the host
supplies a character, the next step leaves the state it would have left had the character been there
before the hold. -/
def Obligations.HeldStepResumesAsIfUnheld : Prop :=
  ∀ (s h : State) (c : Byte), s.runState = .running → s.noCharacter → s.inputEnded = false →
    (decode s.fetchWord).asksInput = true → step s = .next h →
    step (h.supplyInput c) = step (s.supplyInput c)

/-! ## Reserved opcodes -/

/-- R230: RTI always takes the fault IllegalOpcode(0x8), and changes nothing else. The record and
the name are the spec's own decisions D15 and D21 (log entries 15, 18). -/
def Obligations.RtiFaults : Prop :=
  ∀ s : State, ∃ t, exec .rti s = .next t ∧ t.runState = .halted ∧ t.haltCause = .illegalOpcode 0x8 ∧
    t = { s with runState := t.runState, haltCause := t.haltCause } ∧ ∀ u, step t ≠ .next u

/-- R231: RES always takes the fault IllegalOpcode(0xD), and changes nothing else. The record and
the name are the spec's own decisions D15 and D21 (log entries 15, 18). -/
def Obligations.ResFaults : Prop :=
  ∀ s : State, ∃ t, exec .res s = .next t ∧ t.runState = .halted ∧ t.haltCause = .illegalOpcode 0xD ∧
    t = { s with runState := t.runState, haltCause := t.haltCause } ∧ ∀ u, step t ≠ .next u

/-! ## The load -/

/-- R272, R273, R275: loading an object file puts its k-th word at origin + k, as far as the address
space goes, sets the pc to the origin, and changes nothing else. That it does not wrap is the spec's
own decision D16 (log entry 16); the premise is memory's canonical form (log entry 1). -/
def Obligations.LoadPlacesImage : Prop :=
  ∀ (s : State) (origin : Word) (words : List Word), s.mem.wf = true →
    ∃ t, s.load (objectFile origin words) = some t ∧ t = { s with mem := t.mem, pc := origin } ∧
      ∀ a : Word, t.memWord a =
        if a.toNat < origin.toNat then s.memWord a
        else (words[a.toNat - origin.toNat]?).getD (s.memWord a)

/-- R275, the spec's own decision D16 (log entry 16): a file shorter than two bytes is a load error;
a last byte that completes no word is ignored. -/
def Obligations.LoadEdges : Prop :=
  (∀ s : State, s.load [] = none) ∧ (∀ (s : State) (b : Byte), s.load [b] = none) ∧
  (∀ (s : State) (origin : Word) (words : List Word) (b : Byte),
    s.load (objectFile origin words ++ [b]) = s.load (objectFile origin words))
end

