-- ==== Sys2Proof/Laws/Decode.lean ====
section
/-! SUPPORT. Register fields and the service table are one to one with their names; a field of a word
is read back from where it was put. -/

namespace Sys2Proof

/-- R96: a field names a register, and every register is named. -/
@[simp] theorem regOfBits_regBits (r : Reg) : regOfBits (regBits r) = r := by
  cases r <;> rfl

/-- R96: all eight values are valid. -/
@[simp] theorem regBits_regOfBits (b : BitVec 3) : regBits (regOfBits b) = b := by
  revert b; decide

/-- R202: each service has a code of its own. -/
@[simp] theorem Machine.serviceOf_serviceCode (v : Machine.Service) :
    Machine.serviceOf (Machine.serviceCode v) = some v := by
  cases v <;> rfl

/-- R202: a vector selects the one service whose code it is. -/
theorem Machine.serviceOf_some {vec : Byte} {v : Machine.Service} (h : Machine.serviceOf vec = some v) :
    vec = Machine.serviceCode v := by
  unfold Machine.serviceOf at h
  repeat' split at h
  all_goals first | (cases h; assumption) | cases h

/-- R200: what `trapInstr` selects runs the service its vector selects. -/
theorem trapInstr_serviceCode (v : Machine.Service) :
    trapInstr (Machine.serviceCode v) =
      match v with
      | .getc => .getc | .out => .out | .puts => .puts
      | .inChar => .inChar | .putsp => .putsp | .halt => .halt := by
  cases v <;> rfl

theorem trapInstr_of_none {vec : Byte} (h : Machine.serviceOf vec = none) :
    trapInstr vec = .trap vec := by
  simp [trapInstr, h]

/-- The word of the row a vector selects is the TRAP word of that vector (R92). -/
theorem encode_trapInstr (vec : Byte) : encode (trapInstr vec) = encodeTrap vec := by
  cases h : Machine.serviceOf vec with
  | none => rw [trapInstr_of_none h]; rfl
  | some v => rw [Machine.serviceOf_some h, trapInstr_serviceCode]; cases v <;> rfl

/-- The word of JMP or RET is the jump word of its register (R87). -/
theorem encode_jumpInstr (base : Reg) : encode (jumpInstr base) = encodeJump base := by
  cases base <;> rfl

/-! ## Fields of a word -/

/-- R11: the bits of a word that holds one field. -/
theorem bitsAt_getLsbD {n : Nat} (lo k : Nat) (v : BitVec n) :
    (bitsAt lo v).getLsbD k = (decide (k < 16) && decide (lo ≤ k) && v.getLsbD (k - lo)) := by
  by_cases h : k < lo
  · simp [bitsAt, h]
  · have hl : lo ≤ k := by omega
    by_cases hk : k < 16
    · simp [bitsAt, h, hk, hl]
    · simp [bitsAt, hk]

/-- A field is read back whole. -/
theorem extract_bitsAt_self {n : Nat} (lo : Nat) (v : BitVec n) (h : lo + n ≤ 16) :
    (bitsAt lo v).extractLsb' lo n = v := by
  ext k hk
  simp only [BitVec.getElem_extractLsb', bitsAt_getLsbD, Nat.le_add_right, Nat.add_sub_cancel_left]
  simp [show lo + k < 16 by omega, BitVec.getLsbD_eq_getElem hk]

/-- A field that lies below or above the bits read leaves them zero. -/
theorem extract_bitsAt_other {n : Nat} (lo start len : Nat) (v : BitVec n)
    (h : lo + n ≤ start ∨ start + len ≤ lo) : (bitsAt lo v).extractLsb' start len = 0 := by
  ext k hk
  simp only [BitVec.getElem_extractLsb', bitsAt_getLsbD]
  rcases h with h | h
  · simp [BitVec.getLsbD_of_ge v (start + k - lo) (by omega)]
  · simp; intro; omega

end Sys2Proof
end

