-- ==== Sys2Proof/Laws/State.lean ====
section
/-! SUPPORT. What each update of State does to each field, and the updates that are written over
others: the rewriting rules of every later proof. -/

namespace Sys2Proof.Machine

variable (s : State)

/-! ## setReg -/

@[simp] theorem State.setReg_mem (r : Reg) (v : Word) : (s.setReg r v).mem = s.mem := rfl
@[simp] theorem State.setReg_regs (r : Reg) (v : Word) : (s.setReg r v).regs = s.regs.set r v := rfl
@[simp] theorem State.setReg_pc (r : Reg) (v : Word) : (s.setReg r v).pc = s.pc := rfl
@[simp] theorem State.setReg_cond (r : Reg) (v : Word) : (s.setReg r v).cond = s.cond := rfl
@[simp] theorem State.setReg_runState (r : Reg) (v : Word) :
    (s.setReg r v).runState = s.runState := rfl
@[simp] theorem State.setReg_haltCause (r : Reg) (v : Word) :
    (s.setReg r v).haltCause = s.haltCause := rfl
@[simp] theorem State.setReg_input (r : Reg) (v : Word) : (s.setReg r v).input = s.input := rfl
@[simp] theorem State.setReg_inputEnded (r : Reg) (v : Word) :
    (s.setReg r v).inputEnded = s.inputEnded := rfl
@[simp] theorem State.setReg_inputRequested (r : Reg) (v : Word) :
    (s.setReg r v).inputRequested = s.inputRequested := rfl
@[simp] theorem State.setReg_output (r : Reg) (v : Word) : (s.setReg r v).output = s.output := rfl
@[simp] theorem State.setReg_params (r : Reg) (v : Word) : (s.setReg r v).params = s.params := rfl
@[simp] theorem State.setReg_draws (r : Reg) (v : Word) : (s.setReg r v).draws = s.draws := rfl
@[simp] theorem State.setReg_memWord (r : Reg) (v : Word) (b : Word) :
    (s.setReg r v).memWord b = s.memWord b := rfl
@[simp] theorem State.setReg_memRead (r : Reg) (v : Word) (b : Word) :
    (s.setReg r v).memRead b = s.memRead b := rfl

/-! ## setPc -/

@[simp] theorem State.setPc_mem (t : Word) : (s.setPc t).mem = s.mem := rfl
@[simp] theorem State.setPc_regs (t : Word) : (s.setPc t).regs = s.regs := rfl
@[simp] theorem State.setPc_pc (t : Word) : (s.setPc t).pc = t := rfl
@[simp] theorem State.setPc_cond (t : Word) : (s.setPc t).cond = s.cond := rfl
@[simp] theorem State.setPc_runState (t : Word) : (s.setPc t).runState = s.runState := rfl
@[simp] theorem State.setPc_haltCause (t : Word) : (s.setPc t).haltCause = s.haltCause := rfl
@[simp] theorem State.setPc_input (t : Word) : (s.setPc t).input = s.input := rfl
@[simp] theorem State.setPc_inputEnded (t : Word) : (s.setPc t).inputEnded = s.inputEnded := rfl
@[simp] theorem State.setPc_inputRequested (t : Word) :
    (s.setPc t).inputRequested = s.inputRequested := rfl
@[simp] theorem State.setPc_output (t : Word) : (s.setPc t).output = s.output := rfl
@[simp] theorem State.setPc_params (t : Word) : (s.setPc t).params = s.params := rfl
@[simp] theorem State.setPc_draws (t : Word) : (s.setPc t).draws = s.draws := rfl
@[simp] theorem State.setPc_reg (t : Word) (q : Reg) : (s.setPc t).reg q = s.reg q := rfl
@[simp] theorem State.setPc_memWord (t : Word) (b : Word) :
    (s.setPc t).memWord b = s.memWord b := rfl
@[simp] theorem State.setPc_memRead (t : Word) (b : Word) :
    (s.setPc t).memRead b = s.memRead b := rfl

/-! ## afterRead -/

@[simp] theorem State.afterRead_mem (a : Word) : (s.afterRead a).mem = s.mem := rfl
@[simp] theorem State.afterRead_regs (a : Word) : (s.afterRead a).regs = s.regs := rfl
@[simp] theorem State.afterRead_pc (a : Word) : (s.afterRead a).pc = s.pc := rfl
@[simp] theorem State.afterRead_cond (a : Word) : (s.afterRead a).cond = s.cond := rfl
@[simp] theorem State.afterRead_runState (a : Word) : (s.afterRead a).runState = s.runState := rfl
@[simp] theorem State.afterRead_haltCause (a : Word) :
    (s.afterRead a).haltCause = s.haltCause := rfl
@[simp] theorem State.afterRead_input (a : Word) : (s.afterRead a).input = s.input := rfl
@[simp] theorem State.afterRead_inputEnded (a : Word) :
    (s.afterRead a).inputEnded = s.inputEnded := rfl
@[simp] theorem State.afterRead_inputRequested (a : Word) :
    (s.afterRead a).inputRequested = s.inputRequested := rfl
@[simp] theorem State.afterRead_output (a : Word) : (s.afterRead a).output = s.output := rfl
@[simp] theorem State.afterRead_params (a : Word) : (s.afterRead a).params = s.params := rfl
@[simp] theorem State.afterRead_draws (a : Word) :
    (s.afterRead a).draws = s.draws + s.drawsAt a := rfl
@[simp] theorem State.afterRead_reg (a : Word) (q : Reg) : (s.afterRead a).reg q = s.reg q := rfl
@[simp] theorem State.afterRead_memWord (a : Word) (b : Word) :
    (s.afterRead a).memWord b = s.memWord b := rfl

/-! ## memWrite -/

@[simp] theorem State.memWrite_mem (a v : Word) :
    (s.memWrite a v).mem = s.mem.write a.toNat v := rfl
@[simp] theorem State.memWrite_regs (a v : Word) : (s.memWrite a v).regs = s.regs := rfl
@[simp] theorem State.memWrite_pc (a v : Word) : (s.memWrite a v).pc = s.pc := rfl
@[simp] theorem State.memWrite_cond (a v : Word) : (s.memWrite a v).cond = s.cond := rfl
@[simp] theorem State.memWrite_runState (a v : Word) : (s.memWrite a v).runState = s.runState := rfl
@[simp] theorem State.memWrite_haltCause (a v : Word) :
    (s.memWrite a v).haltCause = s.haltCause := rfl
@[simp] theorem State.memWrite_input (a v : Word) : (s.memWrite a v).input = s.input := rfl
@[simp] theorem State.memWrite_inputEnded (a v : Word) :
    (s.memWrite a v).inputEnded = s.inputEnded := rfl
@[simp] theorem State.memWrite_inputRequested (a v : Word) :
    (s.memWrite a v).inputRequested = s.inputRequested := rfl
@[simp] theorem State.memWrite_output (a v : Word) : (s.memWrite a v).output = s.output := rfl
@[simp] theorem State.memWrite_params (a v : Word) : (s.memWrite a v).params = s.params := rfl
@[simp] theorem State.memWrite_draws (a v : Word) : (s.memWrite a v).draws = s.draws := rfl
@[simp] theorem State.memWrite_reg (a v : Word) (q : Reg) : (s.memWrite a v).reg q = s.reg q := rfl

/-! ## enterHalted -/

@[simp] theorem State.enterHalted_mem (c : HaltCause) : (s.enterHalted c).mem = s.mem := rfl
@[simp] theorem State.enterHalted_regs (c : HaltCause) : (s.enterHalted c).regs = s.regs := rfl
@[simp] theorem State.enterHalted_pc (c : HaltCause) : (s.enterHalted c).pc = s.pc := rfl
@[simp] theorem State.enterHalted_cond (c : HaltCause) : (s.enterHalted c).cond = s.cond := rfl
@[simp] theorem State.enterHalted_runState (c : HaltCause) :
    (s.enterHalted c).runState = .halted := rfl
@[simp] theorem State.enterHalted_haltCause (c : HaltCause) : (s.enterHalted c).haltCause = c := rfl
@[simp] theorem State.enterHalted_input (c : HaltCause) : (s.enterHalted c).input = s.input := rfl
@[simp] theorem State.enterHalted_inputEnded (c : HaltCause) :
    (s.enterHalted c).inputEnded = s.inputEnded := rfl
@[simp] theorem State.enterHalted_inputRequested (c : HaltCause) :
    (s.enterHalted c).inputRequested = s.inputRequested := rfl
@[simp] theorem State.enterHalted_output (c : HaltCause) :
    (s.enterHalted c).output = s.output := rfl
@[simp] theorem State.enterHalted_params (c : HaltCause) :
    (s.enterHalted c).params = s.params := rfl
@[simp] theorem State.enterHalted_draws (c : HaltCause) : (s.enterHalted c).draws = s.draws := rfl
@[simp] theorem State.enterHalted_reg (c : HaltCause) (q : Reg) : (s.enterHalted c).reg q = s.reg q := rfl
@[simp] theorem State.enterHalted_memWord (c : HaltCause) (b : Word) :
    (s.enterHalted c).memWord b = s.memWord b := rfl
@[simp] theorem State.enterHalted_memRead (c : HaltCause) (b : Word) :
    (s.enterHalted c).memRead b = s.memRead b := rfl

/-! ## outputBytes -/

@[simp] theorem State.outputBytes_mem (bs : List Byte) : (s.outputBytes bs).mem = s.mem := rfl
@[simp] theorem State.outputBytes_regs (bs : List Byte) : (s.outputBytes bs).regs = s.regs := rfl
@[simp] theorem State.outputBytes_pc (bs : List Byte) : (s.outputBytes bs).pc = s.pc := rfl
@[simp] theorem State.outputBytes_cond (bs : List Byte) : (s.outputBytes bs).cond = s.cond := rfl
@[simp] theorem State.outputBytes_runState (bs : List Byte) :
    (s.outputBytes bs).runState = s.runState := rfl
@[simp] theorem State.outputBytes_haltCause (bs : List Byte) :
    (s.outputBytes bs).haltCause = s.haltCause := rfl
@[simp] theorem State.outputBytes_input (bs : List Byte) : (s.outputBytes bs).input = s.input := rfl
@[simp] theorem State.outputBytes_inputEnded (bs : List Byte) :
    (s.outputBytes bs).inputEnded = s.inputEnded := rfl
@[simp] theorem State.outputBytes_inputRequested (bs : List Byte) :
    (s.outputBytes bs).inputRequested = s.inputRequested := rfl
@[simp] theorem State.outputBytes_output (bs : List Byte) :
    (s.outputBytes bs).output = s.output ++ bs := rfl
@[simp] theorem State.outputBytes_params (bs : List Byte) :
    (s.outputBytes bs).params = s.params := rfl
@[simp] theorem State.outputBytes_draws (bs : List Byte) : (s.outputBytes bs).draws = s.draws := rfl
@[simp] theorem State.outputBytes_reg (bs : List Byte) (q : Reg) : (s.outputBytes bs).reg q = s.reg q := rfl
@[simp] theorem State.outputBytes_memWord (bs : List Byte) (b : Word) :
    (s.outputBytes bs).memWord b = s.memWord b := rfl
@[simp] theorem State.outputBytes_memRead (bs : List Byte) (b : Word) :
    (s.outputBytes bs).memRead b = s.memRead b := rfl

/-! ## afterInput -/

@[simp] theorem State.afterInput_mem : (s.afterInput).mem = s.mem := rfl
@[simp] theorem State.afterInput_regs : (s.afterInput).regs = s.regs := rfl
@[simp] theorem State.afterInput_pc : (s.afterInput).pc = s.pc := rfl
@[simp] theorem State.afterInput_cond : (s.afterInput).cond = s.cond := rfl
@[simp] theorem State.afterInput_runState : (s.afterInput).runState = s.runState := rfl
@[simp] theorem State.afterInput_haltCause : (s.afterInput).haltCause = s.haltCause := rfl
@[simp] theorem State.afterInput_input : (s.afterInput).input = s.input.tail := rfl
@[simp] theorem State.afterInput_inputEnded : (s.afterInput).inputEnded = s.inputEnded := rfl
@[simp] theorem State.afterInput_inputRequested : (s.afterInput).inputRequested = false := rfl
@[simp] theorem State.afterInput_output : (s.afterInput).output = s.output := rfl
@[simp] theorem State.afterInput_params : (s.afterInput).params = s.params := rfl
@[simp] theorem State.afterInput_draws : (s.afterInput).draws = s.draws := rfl
@[simp] theorem State.afterInput_reg (q : Reg) : (s.afterInput).reg q = s.reg q := rfl
@[simp] theorem State.afterInput_memWord (b : Word) :
    (s.afterInput).memWord b = s.memWord b := rfl
@[simp] theorem State.afterInput_memRead (b : Word) :
    (s.afterInput).memRead b = s.memRead b := rfl

/-! ## setCC -/

@[simp] theorem State.setCC_mem (v : Word) : (s.setCC v).mem = s.mem := rfl
@[simp] theorem State.setCC_regs (v : Word) : (s.setCC v).regs = s.regs := rfl
@[simp] theorem State.setCC_pc (v : Word) : (s.setCC v).pc = s.pc := rfl
@[simp] theorem State.setCC_cond (v : Word) : (s.setCC v).cond = condOf v := rfl
@[simp] theorem State.setCC_runState (v : Word) : (s.setCC v).runState = s.runState := rfl
@[simp] theorem State.setCC_haltCause (v : Word) : (s.setCC v).haltCause = s.haltCause := rfl
@[simp] theorem State.setCC_input (v : Word) : (s.setCC v).input = s.input := rfl
@[simp] theorem State.setCC_inputEnded (v : Word) : (s.setCC v).inputEnded = s.inputEnded := rfl
@[simp] theorem State.setCC_inputRequested (v : Word) :
    (s.setCC v).inputRequested = s.inputRequested := rfl
@[simp] theorem State.setCC_output (v : Word) : (s.setCC v).output = s.output := rfl
@[simp] theorem State.setCC_params (v : Word) : (s.setCC v).params = s.params := rfl
@[simp] theorem State.setCC_draws (v : Word) : (s.setCC v).draws = s.draws := rfl
@[simp] theorem State.setCC_reg (v : Word) (q : Reg) : (s.setCC v).reg q = s.reg q := rfl
@[simp] theorem State.setCC_memWord (v : Word) (b : Word) :
    (s.setCC v).memWord b = s.memWord b := rfl
@[simp] theorem State.setCC_memRead (v : Word) (b : Word) :
    (s.setCC v).memRead b = s.memRead b := rfl

/-! ## setCCInput -/

@[simp] theorem State.setCCInput_mem (v : Word) : (s.setCCInput v).mem = s.mem := rfl
@[simp] theorem State.setCCInput_regs (v : Word) : (s.setCCInput v).regs = s.regs := rfl
@[simp] theorem State.setCCInput_pc (v : Word) : (s.setCCInput v).pc = s.pc := rfl
@[simp] theorem State.setCCInput_cond (v : Word) :
    (s.setCCInput v).cond = if s.params.trapInputSetsCC then condOf v else s.cond := rfl
@[simp] theorem State.setCCInput_runState (v : Word) : (s.setCCInput v).runState = s.runState := rfl
@[simp] theorem State.setCCInput_haltCause (v : Word) :
    (s.setCCInput v).haltCause = s.haltCause := rfl
@[simp] theorem State.setCCInput_input (v : Word) : (s.setCCInput v).input = s.input := rfl
@[simp] theorem State.setCCInput_inputEnded (v : Word) :
    (s.setCCInput v).inputEnded = s.inputEnded := rfl
@[simp] theorem State.setCCInput_inputRequested (v : Word) :
    (s.setCCInput v).inputRequested = s.inputRequested := rfl
@[simp] theorem State.setCCInput_output (v : Word) : (s.setCCInput v).output = s.output := rfl
@[simp] theorem State.setCCInput_params (v : Word) : (s.setCCInput v).params = s.params := rfl
@[simp] theorem State.setCCInput_draws (v : Word) : (s.setCCInput v).draws = s.draws := rfl
@[simp] theorem State.setCCInput_reg (v : Word) (q : Reg) : (s.setCCInput v).reg q = s.reg q := rfl
@[simp] theorem State.setCCInput_memWord (v : Word) (b : Word) :
    (s.setCCInput v).memWord b = s.memWord b := rfl
@[simp] theorem State.setCCInput_memRead (v : Word) (b : Word) :
    (s.setCCInput v).memRead b = s.memRead b := rfl

/-! ## unfetch -/

@[simp] theorem State.unfetch_mem : (s.unfetch).mem = s.mem := rfl
@[simp] theorem State.unfetch_regs : (s.unfetch).regs = s.regs := rfl
@[simp] theorem State.unfetch_pc : (s.unfetch).pc = s.pc - 1 := rfl
@[simp] theorem State.unfetch_cond : (s.unfetch).cond = s.cond := rfl
@[simp] theorem State.unfetch_runState : (s.unfetch).runState = s.runState := rfl
@[simp] theorem State.unfetch_haltCause : (s.unfetch).haltCause = s.haltCause := rfl
@[simp] theorem State.unfetch_input : (s.unfetch).input = s.input := rfl
@[simp] theorem State.unfetch_inputEnded : (s.unfetch).inputEnded = s.inputEnded := rfl
@[simp] theorem State.unfetch_inputRequested : (s.unfetch).inputRequested = s.inputRequested := rfl
@[simp] theorem State.unfetch_output : (s.unfetch).output = s.output := rfl
@[simp] theorem State.unfetch_params : (s.unfetch).params = s.params := rfl
@[simp] theorem State.unfetch_draws : (s.unfetch).draws = s.draws - s.drawsAt (s.pc - 1) := rfl
@[simp] theorem State.unfetch_reg (q : Reg) : (s.unfetch).reg q = s.reg q := rfl
@[simp] theorem State.unfetch_memWord (b : Word) :
    (s.unfetch).memWord b = s.memWord b := rfl

/-! ## hold -/

@[simp] theorem State.hold_mem : (s.hold).mem = s.mem := rfl
@[simp] theorem State.hold_regs : (s.hold).regs = s.regs := rfl
@[simp] theorem State.hold_pc : (s.hold).pc = s.pc - 1 := rfl
@[simp] theorem State.hold_cond : (s.hold).cond = s.cond := rfl
@[simp] theorem State.hold_runState : (s.hold).runState = s.runState := rfl
@[simp] theorem State.hold_haltCause : (s.hold).haltCause = s.haltCause := rfl
@[simp] theorem State.hold_input : (s.hold).input = s.input := rfl
@[simp] theorem State.hold_inputEnded : (s.hold).inputEnded = s.inputEnded := rfl
@[simp] theorem State.hold_inputRequested : (s.hold).inputRequested = true := rfl
@[simp] theorem State.hold_output : (s.hold).output = s.output := rfl
@[simp] theorem State.hold_params : (s.hold).params = s.params := rfl
@[simp] theorem State.hold_draws : (s.hold).draws = s.draws - s.drawsAt (s.pc - 1) := rfl
@[simp] theorem State.hold_reg (q : Reg) : (s.hold).reg q = s.reg q := rfl
@[simp] theorem State.hold_memWord (b : Word) :
    (s.hold).memWord b = s.memWord b := rfl

/-! ## supplyInput -/

@[simp] theorem State.supplyInput_mem (c : Byte) : (s.supplyInput c).mem = s.mem := rfl
@[simp] theorem State.supplyInput_regs (c : Byte) : (s.supplyInput c).regs = s.regs := rfl
@[simp] theorem State.supplyInput_pc (c : Byte) : (s.supplyInput c).pc = s.pc := rfl
@[simp] theorem State.supplyInput_cond (c : Byte) : (s.supplyInput c).cond = s.cond := rfl
@[simp] theorem State.supplyInput_runState (c : Byte) :
    (s.supplyInput c).runState = s.runState := rfl
@[simp] theorem State.supplyInput_haltCause (c : Byte) :
    (s.supplyInput c).haltCause = s.haltCause := rfl
@[simp] theorem State.supplyInput_input (c : Byte) :
    (s.supplyInput c).input = if s.inputEnded then s.input else s.input ++ [c] := rfl
@[simp] theorem State.supplyInput_inputEnded (c : Byte) :
    (s.supplyInput c).inputEnded = s.inputEnded := rfl
@[simp] theorem State.supplyInput_inputRequested (c : Byte) :
    (s.supplyInput c).inputRequested = s.inputRequested := rfl
@[simp] theorem State.supplyInput_output (c : Byte) : (s.supplyInput c).output = s.output := rfl
@[simp] theorem State.supplyInput_params (c : Byte) : (s.supplyInput c).params = s.params := rfl
@[simp] theorem State.supplyInput_draws (c : Byte) : (s.supplyInput c).draws = s.draws := rfl
@[simp] theorem State.supplyInput_reg (c : Byte) (q : Reg) : (s.supplyInput c).reg q = s.reg q := rfl
@[simp] theorem State.supplyInput_memWord (c : Byte) (b : Word) :
    (s.supplyInput c).memWord b = s.memWord b := rfl
@[simp] theorem State.supplyInput_memRead (c : Byte) (b : Word) :
    (s.supplyInput c).memRead b = s.memRead b := rfl

/-! ## endInput -/

@[simp] theorem State.endInput_mem : (s.endInput).mem = s.mem := rfl
@[simp] theorem State.endInput_regs : (s.endInput).regs = s.regs := rfl
@[simp] theorem State.endInput_pc : (s.endInput).pc = s.pc := rfl
@[simp] theorem State.endInput_cond : (s.endInput).cond = s.cond := rfl
@[simp] theorem State.endInput_runState : (s.endInput).runState = s.runState := rfl
@[simp] theorem State.endInput_haltCause : (s.endInput).haltCause = s.haltCause := rfl
@[simp] theorem State.endInput_input : (s.endInput).input = s.input := rfl
@[simp] theorem State.endInput_inputEnded : (s.endInput).inputEnded = true := rfl
@[simp] theorem State.endInput_inputRequested :
    (s.endInput).inputRequested = s.inputRequested := rfl
@[simp] theorem State.endInput_output : (s.endInput).output = s.output := rfl
@[simp] theorem State.endInput_params : (s.endInput).params = s.params := rfl
@[simp] theorem State.endInput_draws : (s.endInput).draws = s.draws := rfl
@[simp] theorem State.endInput_reg (q : Reg) : (s.endInput).reg q = s.reg q := rfl
@[simp] theorem State.endInput_memWord (b : Word) :
    (s.endInput).memWord b = s.memWord b := rfl
@[simp] theorem State.endInput_memRead (b : Word) :
    (s.endInput).memRead b = s.memRead b := rfl

/-! ## Updates written over others -/

@[simp] theorem State.raise_eq (c : HaltCause) : s.raise c = s.enterHalted c := rfl
@[simp] theorem State.haltClean_eq : s.haltClean = s.enterHalted .haltTrap := rfl
@[simp] theorem State.outputByte_eq (b : Byte) : s.outputByte b = s.outputBytes [b] := rfl
@[simp] theorem State.showPrompt_eq :
    s.showPrompt = s.outputBytes (if s.inputRequested then [] else s.params.inPrompt) := rfl
@[simp] theorem State.setResult_eq (r : Reg) (v : Word) : s.setResult r v = (s.setReg r v).setCC v := rfl
@[simp] theorem State.jumpTo_eq (r : Reg) : s.jumpTo r = s.setPc (s.reg r) := rfl
@[simp] theorem State.linkTrap_eq :
    s.linkTrap = s.setReg .R7 (if s.params.trapLinksR7 then s.pc else s.reg .R7) := rfl
@[simp] theorem State.fetched_eq : s.fetched = (s.afterRead s.pc).setPc (s.pc + 1) := rfl

/-! ## Registers -/

theorem RegFile.get_set (f : RegFile) (r q : Reg) (v : Word) :
    (f.set r v).get q = if q = r then v else f.get q := by
  cases r <;> cases q <;> rfl

@[simp] theorem State.setReg_reg (r q : Reg) (v : Word) :
    (s.setReg r v).reg q = if q = r then v else s.reg q :=
  RegFile.get_set s.regs r q v

end Sys2Proof.Machine
end

