-- ==== Sys2Proof/Laws/Flags.lean ====
section
/-! SUPPORT. Which flag reflects which value (R27) and when a branch is taken (R140). -/

namespace Sys2Proof.Machine

theorem condOf_eq_zero (v : Word) : condOf v = .zero ↔ v = 0 := by
  unfold condOf
  split
  · next h => simp [h]
  · next h => split <;> simpa using h

theorem condOf_eq_negative (v : Word) : condOf v = .negative ↔ v.getLsbD 15 = true := by
  unfold condOf
  split
  · next h => subst h; simp
  · split
    · next h => exact iff_of_true rfl h
    · next h => exact iff_of_false nofun h

theorem condOf_eq_positive (v : Word) :
    condOf v = .positive ↔ v ≠ 0 ∧ v.getLsbD 15 = false := by
  unfold condOf
  split
  · next h => simp [h]
  · next hz =>
    split
    · next h => rw [h]; exact iff_of_false nofun fun hc => nomatch hc.2
    · next h => exact iff_of_true rfl ⟨hz, Bool.eq_false_iff.mpr h⟩

/-- The bit-test says that the flag Condition holds is among the instruction's (R140, R141). -/
theorem branchTaken_iff (n z p : Bool) (c : Cond) :
    branchTaken n z p c = true ↔
      (n = true ∧ c = .negative) ∨ (z = true ∧ c = .zero) ∨ (p = true ∧ c = .positive) := by
  cases n <;> cases z <;> cases p <;> cases c <;> decide

end Sys2Proof.Machine
end

