-- ==== Sys2Proof/Laws/Memory.lean ====
section
/-! SUPPORT. The laws of memory: a read after a write, and the canonical form, which every memory
operation keeps and in which equal memories are equal lists. -/

namespace Sys2Proof.Machine

theorem Memory.read_cons (a : Nat) (v : Word) (rest : Memory) (b : Nat)
    (h : b = a → Memory.read rest a = Memory.unlisted) :
    (Memory.cons a v rest).read b = if b = a then v else Memory.read rest b := by
  unfold Memory.cons
  split
  · next hv =>
    split
    · next hb => subst hb; rw [h rfl, hv]
    · rfl
  · rfl

theorem Memory.read_of_lt {lo : Nat} {m : Memory} (h : Memory.wfFrom lo m = true) {a : Nat}
    (ha : a < lo) : Memory.read m a = Memory.unlisted := by
  induction m generalizing lo with
  | nil => rfl
  | cons c rest ih =>
    obtain ⟨b, w⟩ := c
    simp only [Memory.wfFrom, Bool.and_eq_true, decide_eq_true_eq] at h
    simp only [Memory.read]
    rw [if_neg (by omega)]
    exact ih h.2 (by omega)

theorem Memory.wfFrom_mono {lo hi : Nat} {m : Memory} (h : Memory.wfFrom hi m = true) (hl : lo ≤ hi) :
    Memory.wfFrom lo m = true := by
  cases m with
  | nil => rfl
  | cons c rest =>
    simp only [Memory.wfFrom, Bool.and_eq_true, decide_eq_true_eq] at h ⊢
    exact ⟨⟨⟨by omega, h.1.1.2⟩, h.1.2⟩, h.2⟩

theorem Memory.wfFrom_cons {lo a : Nat} {v : Word} {rest : Memory} (hl : lo ≤ a) (ha : a < 65536)
    (h : Memory.wfFrom (a + 1) rest = true) : Memory.wfFrom lo (Memory.cons a v rest) = true := by
  unfold Memory.cons
  split
  · exact Memory.wfFrom_mono h (by omega)
  · next hv => simp [Memory.wfFrom, hl, ha, hv, h]

theorem Memory.wfFrom_write {lo : Nat} {m : Memory} (h : Memory.wfFrom lo m = true) {a : Nat} (v : Word)
    (hl : lo ≤ a) (ha : a < 65536) : Memory.wfFrom lo (Memory.write m a v) = true := by
  induction m generalizing lo with
  | nil => exact Memory.wfFrom_cons hl ha rfl
  | cons c rest ih =>
    obtain ⟨b, w⟩ := c
    have h' := h
    simp only [Memory.wfFrom, Bool.and_eq_true, decide_eq_true_eq] at h
    simp only [Memory.write]
    split
    · exact Memory.wfFrom_cons hl ha (by simp [Memory.wfFrom, h.1.1.2, h.1.2, h.2]; omega)
    · split
      · next hab => subst hab; exact Memory.wfFrom_cons hl ha h.2
      · simp only [Memory.wfFrom, Bool.and_eq_true, decide_eq_true_eq]
        exact ⟨h.1, ih h.2 (by omega)⟩

/-- Every write keeps the canonical form; it is the one operation that changes memory. -/
theorem Memory.wf_write {m : Memory} (h : m.wf = true) {a : Nat} (v : Word) (ha : a < 65536) :
    (m.write a v).wf = true :=
  Memory.wfFrom_write h v (Nat.zero_le a) ha

theorem Memory.read_write_from {lo : Nat} {m : Memory} (h : Memory.wfFrom lo m = true) (a b : Nat)
    (v : Word) : (m.write a v).read b = if b = a then v else m.read b := by
  induction m generalizing lo with
  | nil => exact Memory.read_cons a v [] b fun _ => rfl
  | cons c rest ih =>
    obtain ⟨d, w⟩ := c
    have hd : Memory.wfFrom d ((d, w) :: rest) = true := by
      simp only [Memory.wfFrom, Bool.and_eq_true, decide_eq_true_eq] at h ⊢
      exact ⟨⟨⟨le_rfl, h.1.1.2⟩, h.1.2⟩, h.2⟩
    simp only [Memory.wfFrom, Bool.and_eq_true, decide_eq_true_eq] at h
    simp only [Memory.write]
    split
    · next hlt => exact Memory.read_cons a v _ b fun _ => Memory.read_of_lt hd hlt
    · split
      · next hab =>
        subst hab
        rw [Memory.read_cons a v rest b fun _ => Memory.read_of_lt h.2 (by omega)]
        simp only [Memory.read]
        split <;> rfl
      · next hne =>
        simp only [Memory.read, ih h.2]
        split
        · next hbd => rw [if_neg (by omega)]
        · rfl

/-- R63: a read of the address written gives the value written, every other read is as before. -/
theorem Memory.read_write {m : Memory} (h : m.wf = true) (a b : Nat) (v : Word) :
    (m.write a v).read b = if b = a then v else m.read b :=
  Memory.read_write_from h a b v

/-- R63, over State: `mem[b]` after `MemWrite(a, v)`. -/
theorem State.memWord_memWrite {s : State} (h : s.mem.wf = true) (a v b : Word) :
    (s.memWrite a v).memWord b = if b = a then v else s.memWord b := by
  simp only [State.memWord, State.memWrite_mem, Memory.read_write h, BitVec.toNat_inj]

/-- A write of State keeps the canonical form. -/
theorem State.memWrite_wf {s : State} (h : s.mem.wf = true) (a v : Word) :
    (s.memWrite a v).mem.wf = true :=
  Memory.wf_write h v a.isLt

end Sys2Proof.Machine
end

