-- ==== Sys2Proof/Laws/Operands.lean ====
section
/-! SUPPORT. A base plus a sign-extended offset is their integer sum modulo 2^16 (R61, R94). -/

namespace Sys2Proof.Machine

theorem toNat_add_toInt (b v : Word) :
    ((b + v).toNat : Int) = ((b.toNat : Int) + v.toInt) % 65536 := by
  rw [BitVec.toNat_add, BitVec.toInt_eq_toNat_bmod]
  simp only [Int.bmod]
  split <;> omega

theorem toNat_add_signExtend {n : Nat} (b : Word) (off : BitVec n) (h : n ≤ 16) :
    ((b + off.signExtend 16).toNat : Int) = ((b.toNat : Int) + off.toInt) % 65536 := by
  rw [toNat_add_toInt, BitVec.toInt_signExtend_of_le h]

theorem toNat_add_sextImm5 (b : Word) (v : BitVec 5) :
    ((b + sextImm5 v).toNat : Int) = ((b.toNat : Int) + v.toInt) % 65536 :=
  toNat_add_signExtend b v (by decide)

theorem toNat_pcRel9 (s : State) (off : BitVec 9) :
    ((s.pcRel9 off).toNat : Int) = ((s.pc.toNat : Int) + off.toInt) % 65536 :=
  toNat_add_signExtend s.pc off (by decide)

theorem toNat_pcRel11 (s : State) (off : BitVec 11) :
    ((s.pcRel11 off).toNat : Int) = ((s.pc.toNat : Int) + off.toInt) % 65536 :=
  toNat_add_signExtend s.pc off (by decide)

theorem toNat_baseOff6 (s : State) (base : Reg) (off : BitVec 6) :
    ((s.baseOff6 base off).toNat : Int) = (((s.reg base).toNat : Int) + off.toInt) % 65536 :=
  toNat_add_signExtend (s.reg base) off (by decide)

end Sys2Proof.Machine
end

