-- ==== Sys2Proof/Laws/Ops.lean ====
section
/-! SUPPORT. What the shared operations can do, once each: the fetch and its undoing, the console
input, the string walk, the services, the load. -/

namespace Sys2Proof.Machine

variable (s : State)

/-! ## The fetch -/

/-- A fetch taken back leaves the state it started from (R211). -/
theorem State.unfetch_fetched : s.fetched.unfetch = s := by
  simp [State.unfetch, State.fetched, State.setPc, State.afterRead, State.drawsAt]

/-- A step held right after its fetch is the state before the fetch, the request standing. -/
theorem State.hold_fetched : s.fetched.hold = { s with inputRequested := true } := by
  show { s.fetched.unfetch with inputRequested := true } = _
  rw [State.unfetch_fetched]

/-- Where no keyboard register stands a read takes no draw. -/
theorem State.afterRead_of_fetchable {a : Word} (h : s.fetchable a = true) : s.afterRead a = s := by
  simp only [State.fetchable, Bool.and_eq_true, decide_eq_true_eq] at h
  simp [State.afterRead, State.drawsAt, h.1, h.2]

/-- Where no keyboard register stands a read returns the stored word (R53). -/
theorem State.memRead_of_fetchable {a : Word} (h : s.fetchable a = true) : s.memRead a = s.memWord a := by
  simp only [State.fetchable, Bool.and_eq_true, decide_eq_true_eq] at h
  simp [State.memRead, h.1, h.2]

/-- A read at any other address does not see that a draw was taken. -/
theorem State.memRead_afterRead {a b : Word} (h : a ≠ b) : (s.afterRead a).memRead b = s.memRead b := by
  by_cases hs : b = s.params.kbsrAddr
  · simp [State.memRead, hs]
  · by_cases hd : b = s.params.kbdrAddr
    · subst hd; simp [State.memRead, State.drawsAt, h]
    · simp [State.memRead, hs, hd]

/-! ## Console input (R36) -/

theorem State.inputWord_cons {c : Byte} {rest : List Byte} (h : s.input = c :: rest) :
    s.inputWord = some (zextByte c) := by
  simp [State.inputWord, h]

theorem State.inputWord_value {w : Word} (hi : s.input = []) (he : s.inputEnded = true)
    (hp : s.params.inputEnd = .value w) : s.inputWord = some w := by
  simp [State.inputWord, hi, he, hp]

theorem State.inputWord_none (hi : s.input = [])
    (h : s.inputEnded = false ∨ s.params.inputEnd = .stuck) : s.inputWord = none := by
  rcases h with h | h <;> simp [State.inputWord, hi, h]

/-- The port reads three fields, which neither a prompt nor a fetch changes. -/
@[simp] theorem State.outputBytes_inputWord (bs : List Byte) :
    (s.outputBytes bs).inputWord = s.inputWord := rfl

@[simp] theorem State.fetched_inputWord : s.fetched.inputWord = s.inputWord := rfl

/-- While no character can be returned, GETC is held (R203, R211). -/
theorem State.serviceGetc_none (h : s.inputWord = none) : s.serviceGetc = s.hold := by
  simp [State.serviceGetc, h]

/-- GETC with a character (R203). -/
theorem State.serviceGetc_some {c : Word} (h : s.inputWord = some c) :
    s.serviceGetc = (s.afterInput.linkTrap.setReg .R0 c).setCCInput c := by
  simp [State.serviceGetc, h]

/-- While no character can be returned, IN shows its prompt and is held (R206, R211). -/
theorem State.serviceIn_none (h : s.inputWord = none) : s.serviceIn = s.showPrompt.hold := by
  simp [State.serviceIn, h]

/-- IN with a character (R206). -/
theorem State.serviceIn_some {c : Word} (h : s.inputWord = some c) :
    s.serviceIn =
      ((s.showPrompt.afterInput.linkTrap.outputByte (lowByte c)).setReg .R0 c).setCCInput c := by
  simp [State.serviceIn, h]

/-- A prompt shown between the fetch and the hold is shown in the state before the fetch. -/
theorem State.showPrompt_hold_fetched :
    s.fetched.showPrompt.hold = { s.showPrompt with inputRequested := true } :=
  s.showPrompt.hold_fetched

/-! ## The string walk (R205, R207, R209) -/

/-- A walk changes the output and the count of draws, nothing else. -/
theorem State.walkString_frame (f : Word → List Byte) (n : Nat) (a : Word) :
    State.walkString f n a s =
      { s with output := (State.walkString f n a s).output
               draws := (State.walkString f n a s).draws } := by
  induction n generalizing a s with
  | zero => rfl
  | succ n ih =>
    simp only [State.walkString]
    split
    · rfl
    · rw [ih]; rfl

/-- A walk only appends to the output (R37). -/
theorem State.walkString_output (f : Word → List Byte) (n : Nat) (a : Word) :
    s.output <+: (State.walkString f n a s).output := by
  induction n generalizing a s with
  | zero => exact List.prefix_rfl
  | succ n ih =>
    simp only [State.walkString]
    split
    · exact List.prefix_rfl
    · exact (List.prefix_append s.output _).trans
        (ih ((s.afterRead a).outputBytes (f (s.memRead a))) (a + 1))

/-! ## The services (R200 to R208) -/

/-- No service changes memory, and none changes the machine's parameters or the end of the input. -/
theorem State.runService_mem (v : Service) :
    (s.runService v).mem = s.mem ∧ (s.runService v).params = s.params ∧
      (s.runService v).inputEnded = s.inputEnded := by
  cases v with
  | getc => simp only [State.runService, State.serviceGetc]; split <;> simp
  | out => simp [State.runService, State.serviceOut]
  | puts =>
    simp only [State.runService, State.servicePuts]; rw [State.walkString_frame]; simp
  | inChar => simp only [State.runService, State.serviceIn]; split <;> simp
  | putsp =>
    simp only [State.runService, State.servicePutsp]; rw [State.walkString_frame]; simp
  | halt => simp [State.runService, State.serviceHalt]

/-- HALT alone leaves the running state, with the clean cause (R208). -/
theorem State.runService_run (v : Service) :
    ((s.runService v).runState = s.runState ∧ (s.runService v).haltCause = s.haltCause) ∨
      (v = .halt ∧ (s.runService v).runState = .halted ∧ (s.runService v).haltCause = .haltTrap) := by
  cases v with
  | getc => left; simp only [State.runService, State.serviceGetc]; split <;> simp
  | out => left; simp [State.runService, State.serviceOut]
  | puts =>
    left; simp only [State.runService, State.servicePuts]; rw [State.walkString_frame]; simp
  | inChar => left; simp only [State.runService, State.serviceIn]; split <;> simp
  | putsp =>
    left; simp only [State.runService, State.servicePutsp]; rw [State.walkString_frame]; simp
  | halt => right; simp [State.runService, State.serviceHalt]

/-! ## The load (R272) -/

/-- The load keeps memory's canonical form. -/
theorem loadWords_wf {m : Memory} (h : m.wf = true) (a : Nat) (bs : List Byte) :
    (loadWords a bs m).wf = true := by
  match bs with
  | [] => exact h
  | [_] => exact h
  | hi :: lo :: rest =>
    simp only [loadWords]
    split
    · exact loadWords_wf (Memory.wf_write h _ (by omega)) (a + 1) rest
    · exact h

/-- A successful load sets memory and the pc, nothing else. -/
theorem State.load_frame {bs : List Byte} {t : State} (h : s.load bs = some t) :
    t = { s with mem := t.mem, pc := t.pc } := by
  match bs with
  | [] | [_] => cases h
  | hi :: lo :: rest =>
    simp only [State.load, Option.some.injEq] at h
    subst h; rfl

end Sys2Proof.Machine
end

