-- ==== Sys2Proof/Laws/PerInstr.lean ====
section
/-! SUPPORT. A statement made of every instruction as syntax, one lemma per constructor: the word the
encoder writes carries the instruction's opcode in bits 15-12 (R81, R82). -/

namespace Sys2Proof.Laws.OpcodeField

/-- R81, R82: `encode i` is routed by the opcode of `i`. -/
def Statement (i : Instr) : Prop := opcodeOf (encode i) = i.opcode

/-- The opcode of a word with `op` at bit 12 and a rest that has nothing there. -/
theorem opcodeOf_or (a b : Word) (h : opcodeOf b = 0) : opcodeOf (a ||| b) = opcodeOf a := by
  simp only [opcodeOf] at *
  rw [BitVec.extractLsb'_or, h]
  exact BitVec.or_zero

theorem opcodeOf_low {n : Nat} (lo : Nat) (v : BitVec n) (h : lo + n ≤ 12) :
    opcodeOf (bitsAt lo v) = 0 :=
  extract_bitsAt_other lo 12 4 v (.inl h)

theorem opcodeOf_top (op : BitVec 4) : opcodeOf (bitsAt 12 op) = op :=
  extract_bitsAt_self 12 op (by decide)

theorem operateR (op : BitVec 4) (dr sr1 sr2 : Reg) : opcodeOf (encodeOperateR op dr sr1 sr2) = op := by
  simp only [encodeOperateR]
  rw [opcodeOf_or _ _ (opcodeOf_low _ _ (by decide)), opcodeOf_or _ _ (opcodeOf_low _ _ (by decide)),
    opcodeOf_or _ _ (opcodeOf_low _ _ (by decide)), opcodeOf_top]

theorem operateI (op : BitVec 4) (dr sr1 : Reg) (imm5 : BitVec 5) :
    opcodeOf (encodeOperateI op dr sr1 imm5) = op := by
  simp only [encodeOperateI]
  rw [opcodeOf_or _ _ (opcodeOf_low _ _ (by decide)), opcodeOf_or _ _ (opcodeOf_low _ _ (by decide)),
    opcodeOf_or _ _ (opcodeOf_low _ _ (by decide)), opcodeOf_or _ _ (opcodeOf_low _ _ (by decide)),
    opcodeOf_top]

theorem pcRel (op : BitVec 4) (r : Reg) (off9 : BitVec 9) : opcodeOf (encodePcRel op r off9) = op := by
  simp only [encodePcRel]
  rw [opcodeOf_or _ _ (opcodeOf_low _ _ (by decide)), opcodeOf_or _ _ (opcodeOf_low _ _ (by decide)),
    opcodeOf_top]

theorem baseOff (op : BitVec 4) (r base : Reg) (off6 : BitVec 6) :
    opcodeOf (encodeBaseOff op r base off6) = op := by
  simp only [encodeBaseOff]
  rw [opcodeOf_or _ _ (opcodeOf_low _ _ (by decide)), opcodeOf_or _ _ (opcodeOf_low _ _ (by decide)),
    opcodeOf_or _ _ (opcodeOf_low _ _ (by decide)), opcodeOf_top]

theorem jump (base : Reg) : opcodeOf (encodeJump base) = 0b1100#4 := by
  simp only [encodeJump]
  rw [opcodeOf_or _ _ (opcodeOf_low _ _ (by decide)), opcodeOf_top]

theorem trapWord (vec : Byte) : opcodeOf (encodeTrap vec) = 0b1111#4 := by
  simp only [encodeTrap]
  rw [opcodeOf_or _ _ (opcodeOf_low _ _ (by decide)), opcodeOf_top]

theorem addR (dr sr1 sr2 : Reg) : Statement (.addR dr sr1 sr2) :=
  operateR _ dr sr1 sr2

theorem addI (dr sr1 : Reg) (imm5 : BitVec 5) : Statement (.addI dr sr1 imm5) :=
  operateI _ dr sr1 imm5

theorem andR (dr sr1 sr2 : Reg) : Statement (.andR dr sr1 sr2) :=
  operateR _ dr sr1 sr2

theorem andI (dr sr1 : Reg) (imm5 : BitVec 5) : Statement (.andI dr sr1 imm5) :=
  operateI _ dr sr1 imm5

theorem not (dr sr : Reg) : Statement (.not dr sr) := by
  simp only [Statement, encode]
  rw [opcodeOf_or _ _ (opcodeOf_low _ _ (by decide)),
    opcodeOf_or _ _ (opcodeOf_low _ _ (by decide)),
    opcodeOf_or _ _ (opcodeOf_low _ _ (by decide)),
    opcodeOf_top]
  rfl

theorem br (n z p : Bool) (off9 : BitVec 9) : Statement (.br n z p off9) := by
  simp only [Statement, encode]
  rw [opcodeOf_or _ _ (opcodeOf_low _ _ (by decide)),
    opcodeOf_or _ _ (opcodeOf_low _ _ (by decide)),
    opcodeOf_or _ _ (opcodeOf_low _ _ (by decide)),
    opcodeOf_or _ _ (opcodeOf_low _ _ (by decide)),
    opcodeOf_top]
  rfl

theorem jmp (base : Reg) : Statement (.jmp base) :=
  jump base

theorem ret : Statement .ret :=
  jump .R7

theorem jsr (off11 : BitVec 11) : Statement (.jsr off11) := by
  simp only [Statement, encode]
  rw [opcodeOf_or _ _ (opcodeOf_low _ _ (by decide)),
    opcodeOf_or _ _ (opcodeOf_low _ _ (by decide)),
    opcodeOf_top]
  rfl

theorem jsrr (base : Reg) : Statement (.jsrr base) := by
  simp only [Statement, encode]
  rw [opcodeOf_or _ _ (opcodeOf_low _ _ (by decide)),
    opcodeOf_top]
  rfl

theorem ld (r : Reg) (off9 : BitVec 9) : Statement (.ld r off9) :=
  pcRel _ r off9

theorem ldi (r : Reg) (off9 : BitVec 9) : Statement (.ldi r off9) :=
  pcRel _ r off9

theorem ldr (r base : Reg) (off6 : BitVec 6) : Statement (.ldr r base off6) :=
  baseOff _ r base off6

theorem lea (r : Reg) (off9 : BitVec 9) : Statement (.lea r off9) :=
  pcRel _ r off9

theorem st (r : Reg) (off9 : BitVec 9) : Statement (.st r off9) :=
  pcRel _ r off9

theorem sti (r : Reg) (off9 : BitVec 9) : Statement (.sti r off9) :=
  pcRel _ r off9

theorem str (r base : Reg) (off6 : BitVec 6) : Statement (.str r base off6) :=
  baseOff _ r base off6

theorem trap (vec : Byte) : Statement (.trap vec) :=
  trapWord vec

theorem getc : Statement .getc :=
  trapWord _

theorem out : Statement .out :=
  trapWord _

theorem puts : Statement .puts :=
  trapWord _

theorem inChar : Statement .inChar :=
  trapWord _

theorem putsp : Statement .putsp :=
  trapWord _

theorem halt : Statement .halt :=
  trapWord _

theorem rti : Statement .rti :=
  opcodeOf_top _

theorem res : Statement .res :=
  opcodeOf_top _

end Sys2Proof.Laws.OpcodeField
end

