-- ==== Sys2Proof/Laws/Step.lean ====
section
/-! SUPPORT. What a step is (R38), and that an instruction placed by withFetchWord is the one the next
step runs. -/

namespace Sys2Proof.Machine

theorem step_running {s : State} (h : s.runState = .running) :
    step s = exec (decode s.fetchWord) s.fetched := by
  simp [step, h]

theorem step_halted {s : State} (h : s.runState = .halted) : step s = .fault .halted := by
  simp [step, h]

/-- A step that answers a next state started RUNNING and is the meaning of the decoded instruction. -/
theorem step_next {s t : State} (h : step s = .next t) :
    s.runState = .running ∧ exec (decode s.fetchWord) s.fetched = .next t := by
  unfold step at h
  split at h
  · next hr => exact ⟨hr, h⟩
  · cases h

/-- The address withFetchWord chooses is one whose stored word a fetch returns. -/
theorem State.fetchable_fetchablePc (s : State) : s.fetchable s.fetchablePc = true := by
  have h1 : s.pc + 1 ≠ s.pc := by simp
  have h2 : s.pc + 2 ≠ s.pc := by simp
  have h3 : s.pc + 2 ≠ s.pc + 1 := by simp
  unfold State.fetchablePc
  split
  · assumption
  · split
    · assumption
    · simp only [State.fetchable, Bool.and_eq_true, decide_eq_true_eq, not_and_or, not_not] at *
      grind

/-- The next step of `s.withFetchWord nbits w` runs the instruction `decodeTableWord` reads. -/
theorem step_withFetchWord {s : State} (h : s.mem.wf = true) (nbits w : Nat) :
    ∃ u, step (s.withFetchWord nbits w) = exec (decode (BitVec.ofNat 16 (w % 2 ^ nbits))) u := by
  have hf := s.fetchable_fetchablePc
  have hw : (s.withFetchWord nbits w).fetchWord = BitVec.ofNat 16 (w % 2 ^ nbits) := by
    have hr : (s.withFetchWord nbits w).fetchable (s.withFetchWord nbits w).pc = true := hf
    rw [State.fetchWord, State.memRead_of_fetchable _ hr]
    exact (State.memWord_memWrite h _ _ _).trans (if_pos rfl)
  exact ⟨_, (step_running rfl).trans (by rw [hw])⟩

end Sys2Proof.Machine
end

