-- ==== Sys2Proof/Tests/Slice0.lean ====
section
/-! SUPPORT. The model's own tests. Expected results are those of spec/95_test_vectors.md (the vector's
id stands in each comment) or worked by hand from the rule named; then a witness for the premises of
each statement of Certificates/Slice0/Obligations.lean. -/

namespace Sys2Proof.Tests

open Sys2Proof.Machine Sys2Proof.Claims

/-! ## Small states -/

/-- The parameters of spec/95_test_vectors.md. -/
def params : Params where
  trapLinksR7 := false
  trapInputSetsCC := false
  inputEnd := .stuck
  inPrompt := []
  kbsrAddr := 0xFE00
  kbdrAddr := 0xFE02

/-- The initial state under those parameters, the instruction word `w` at 0x3000. -/
def running (w : Word) : State :=
  { State.reset with params := params, mem := [(0x3000, w)] }

/-- The same with the instruction at another pc. -/
def runningAt (pc w : Word) : State :=
  { State.reset with params := params, mem := [(pc.toNat, w)], pc := pc }

/-- The initial state with TRAP_LINKS_R7 and TRAP_INPUT_SETS_CC true. -/
def linking (w : Word) : State :=
  { running w with params := { params with trapLinksR7 := true, trapInputSetsCC := true } }

/-- What is seen of the state after one step. -/
def after {α : Type} (s : State) (see : State → α) : Option α :=
  match step s with
  | .next t => some (see t)
  | .fault _ => none
  | .refused _ => none

/-! ## Well-formedness -/

/-- RET's words are not JMP's (log entry 17). -/
theorem test_wellFormed_refuses_jmp_R7 : (Instr.jmp .R7).wellFormed = false := by decide

/-- A service's words are not TRAP's (log entry 17). -/
theorem test_wellFormed_refuses_trap_halt : (Instr.trap 0x25).wellFormed = false := by decide

theorem test_wellFormed_admits_jmp_R6 : (Instr.jmp .R6).wellFormed = true := by decide

theorem test_wellFormed_admits_trap_26 : (Instr.trap 0x26).wellFormed = true := by decide

/-! ## Decoding: words written out bit by bit from R83 to R93 -/

/-- R83: 0001 DR=101 SR1=011 0 00 SR2=110. -/
theorem test_decode_addR : decode 0b0001_101_011_0_00_110 = .addR .R5 .R3 .R6 := by decide
/-- V-DC: ADDi DR=5 SR1=0 imm=-1. -/
theorem test_decode_addI : decode 0b0001_101_000_1_11111 = .addI .R5 .R0 (-1) := by decide
/-- R83: 0101 DR=111 SR1=000 0 00 SR2=001. -/
theorem test_decode_andR : decode 0b0101_111_000_0_00_001 = .andR .R7 .R0 .R1 := by decide
/-- R84. -/
theorem test_decode_andI : decode 0b0101_001_001_1_10000 = .andI .R1 .R1 (-16) := by decide
/-- R85. -/
theorem test_decode_not : decode 0b1001_111_000_111111 = .not .R7 .R0 := by decide
/-- R86: n, z, p are bits 11, 10, 9. -/
theorem test_decode_br : decode 0b0000_1_0_0_011111111 = .br true false false 255 := by decide
/-- R87. -/
theorem test_decode_jmp : decode 0b1100_000_011_000000 = .jmp .R3 := by decide
/-- R87, V-DC. -/
theorem test_decode_ret : decode 0b1100_000_111_000000 = .ret := by decide
/-- R88. -/
theorem test_decode_jsr : decode 0b0100_1_10000000000 = .jsr (-1024) := by decide
/-- R89, V-DC: bits 10-9 and 5-0 ignored. -/
theorem test_decode_jsrr : decode 0b0100_0_11_111_111111 = .jsrr .R7 := by decide
/-- R90. -/
theorem test_decode_ld : decode 0b0010_001_100000000 = .ld .R1 (-256) := by decide
/-- R90. -/
theorem test_decode_ldi : decode 0b1010_010_000000101 = .ldi .R2 5 := by decide
/-- R91, V-DC. -/
theorem test_decode_ldr : decode 0b0110_111_000_111111 = .ldr .R7 .R0 (-1) := by decide
/-- R90, V-DC. -/
theorem test_decode_lea : decode 0b1110_000_111111111 = .lea .R0 (-1) := by decide
/-- R90. -/
theorem test_decode_st : decode 0b0011_011_000000100 = .st .R3 4 := by decide
/-- R90. -/
theorem test_decode_sti : decode 0b1011_001_000000001 = .sti .R1 1 := by decide
/-- R91. -/
theorem test_decode_str : decode 0b0111_101_010_011111 = .str .R5 .R2 31 := by decide
/-- R92, V-DC. -/
theorem test_decode_trap : decode 0b1111_0000_11111111 = .trap 0xFF := by decide
/-- R202: the six services by their codes; bits 11-8 are ignored (R97). -/
theorem test_decode_services :
    [0xF020, 0xF021, 0xF122, 0xF223, 0xF824, 0xFF25].map decode =
      [.getc, .out, .puts, .inChar, .putsp, .halt] := by decide
/-- R93. -/
theorem test_decode_reserved :
    [0x8000, 0x8FFF, 0xD000, 0xDFFF].map decode = [.rti, .rti, .res, .res] := by decide

/-- R104: the words the assembler writes. -/
theorem test_encode_words :
    [Instr.addR .R0 .R1 .R2, .addI .R0 .R0 (-1), .not .R4 .R4, .br false true false 2, .ret,
      .jsr 10, .jsrr .R2, .ldi .R2 5, .ldr .R0 .R1 (-1), .sti .R1 1, .str .R5 .R2 31, .halt].map encode =
    [0x1042, 0x103F, 0x993F, 0x0402, 0xC1C0, 0x480A, 0x4080, 0xA405, 0x607F, 0xB201, 0x7A9F, 0xF025] := by
  decide

/-! ## Operate instructions -/

/-- OP1: signed overflow wraps and sets NEGATIVE. -/
theorem test_addR_wraps_sign :
    after (((running 0x1042).setReg .R1 0x7FFF).setReg .R2 1) (fun t => (t.reg .R0, t.cond, t.pc)) =
      some (0x8000, .negative, 0x3001) := by decide
/-- OP3: a source that is also the destination. -/
theorem test_addR_same_register :
    after ((running 0x1241).setReg .R1 0x4000) (fun t => (t.reg .R1, t.cond)) =
      some (0x8000, .negative) := by decide
/-- OP5: imm5 = 10000 adds 0xFFF0. -/
theorem test_addI_least :
    after (running 0x1070) (fun t => (t.reg .R0, t.cond)) = some (0xFFF0, .negative) := by decide
/-- OP6: a carry out gives zero. -/
theorem test_addI_carry :
    after ((running 0x106F).setReg .R1 0xFFF1) (fun t => (t.reg .R0, t.cond)) = some (0, .zero) := by
  decide
/-- OP8. -/
theorem test_andR :
    after (((running 0x5642).setReg .R1 0x8F0F).setReg .R2 0xF0FF) (fun t => (t.reg .R3, t.cond)) =
      some (0x800F, .negative) := by decide
/-- OP10: the immediate is sign-extended. -/
theorem test_andI_sext :
    after ((running 0x5270).setReg .R1 0x1234) (fun t => (t.reg .R1, t.cond)) =
      some (0x1230, .positive) := by decide
/-- OP12. -/
theorem test_not_sign :
    after ((running 0x927F).setReg .R1 0x8000) (fun t => (t.reg .R1, t.cond)) =
      some (0x7FFF, .positive) := by decide
/-- OP14: bits 5-0 are ignored. -/
theorem test_not_ignored_bits :
    after ((running 0x9240).setReg .R1 0x00FF) (fun t => (t.reg .R1, t.cond)) =
      some (0xFF00, .negative) := by decide

/-! ## Control transfer -/

/-- V-BR: the whole truth table, rows nzp = 000 to 111, columns NEGATIVE, ZERO, POSITIVE. -/
theorem test_br_table :
    ([0x0005, 0x0205, 0x0405, 0x0605, 0x0805, 0x0A05, 0x0C05, 0x0E05] : List Word).map (fun w =>
      [Cond.negative, .zero, .positive].map fun c =>
        after { running w with cond := c } (fun t => decide (t.pc = 0x3006))) =
    [[some false, some false, some false], [some false, some false, some true],
     [some false, some true, some false], [some false, some true, some true],
     [some true, some false, some false], [some true, some false, some true],
     [some true, some true, some false], [some true, some true, some true]] := by decide
/-- CT6: the target wraps below 0x0000. -/
theorem test_br_wraps : after (runningAt 0 0x05FE) State.pc = some 0xFFFF := by decide
/-- CT9: padding bits are ignored. -/
theorem test_jmp : after ((running 0xCEFF).setReg .R3 0x4000) State.pc = some 0x4000 := by decide
/-- CT10. -/
theorem test_ret : after ((running 0xC1C0).setReg .R7 0x1234) State.pc = some 0x1234 := by decide
/-- E4: the source's worked example. -/
theorem test_jsr : after (runningAt 0x2FFF 0x480A) (fun t => (t.reg .R7, t.pc)) =
    some (0x3000, 0x300A) := by decide
/-- CT13: the return address wraps. -/
theorem test_jsr_wraps : after (runningAt 0xFFFF 0x4800) (fun t => (t.reg .R7, t.pc)) =
    some (0, 0) := by decide
/-- CT14. -/
theorem test_jsrr : after ((running 0x4080).setReg .R2 0x5000) (fun t => (t.reg .R7, t.pc)) =
    some (0x3001, 0x5000) := by decide
/-- CT15: R7 is written before it is read. -/
theorem test_jsrr_R7 : after ((running 0x41C0).setReg .R7 0x5000) (fun t => (t.reg .R7, t.pc)) =
    some (0x3001, 0x3001) := by decide

/-! ## Loads -/

/-- LD1. -/
theorem test_ld :
    after { running 0x2202 with mem := [(0x3000, 0x2202), (0x3003, 0x8000)] }
      (fun t => (t.reg .R1, t.cond)) = some (0x8000, .negative) := by decide
/-- LD3: the keyboard status register reads as 0x0000 whatever is stored there. -/
theorem test_ld_kbsr :
    after { runningAt 0xFDFF 0x2000 with mem := [(0xFDFF, 0x2000), (0xFE00, 0xBEEF)] }
      (fun t => (t.reg .R0, t.cond)) = some (0, .zero) := by decide
/-- LD11: the keyboard data register reads as the draw, whatever it is, and Condition reflects it. -/
theorem test_ld_kbdr :
    after (runningAt 0xFE01 0x2000) (fun t => (t.reg .R0, t.cond)) =
      some (Config.kbdrDraw 0, condOf (Config.kbdrDraw 0)) := rfl
/-- E5, LD4: the source's worked example. -/
theorem test_ldi :
    after { runningAt 0x2FFF 0xA405 with mem := [(0x2FFF, 0xA405), (0x3005, 0x4000), (0x4000, 0x5678)] }
      (fun t => (t.reg .R2, t.cond)) = some (0x5678, .positive) := by decide
/-- LD5: a pointer to itself. -/
theorem test_ldi_self :
    after { running 0xA200 with mem := [(0x3000, 0xA200), (0x3001, 0x3001)] } (fun t => t.reg .R1) =
      some 0x3001 := by decide
/-- LD7: the address wraps. -/
theorem test_ldr_wraps :
    after { running 0x607F with mem := [(0x3000, 0x607F), (0xFFFF, 0x1111)] }
      (fun t => (t.reg .R0, t.cond)) = some (0x1111, .positive) := by decide
/-- LD6: the base is read before it is overwritten. -/
theorem test_ldr_same_register :
    after ((running 0x6240).setReg .R1 0x4000) (fun t => (t.reg .R1, t.cond)) = some (0, .zero) := by
  decide
/-- LD9. -/
theorem test_lea_negative :
    after (runningAt 0x8000 0xE000) (fun t => (t.reg .R0, t.cond)) = some (0x8001, .negative) := by decide
/-- LD10: the address wraps to zero. -/
theorem test_lea_wraps :
    after ((runningAt 0xFFFF 0xE000).setReg .R0 0x1234) (fun t => (t.reg .R0, t.cond)) =
      some (0, .zero) := by decide

/-! ## Stores -/

/-- ST1: Condition is kept. -/
theorem test_st :
    after { (running 0x3604).setReg .R3 0x1234 with cond := .negative }
      (fun t => (t.memWord 0x3005, t.cond)) = some (0x1234, .negative) := by decide
/-- ST2: stored, and still read as the stub. -/
theorem test_st_kbsr :
    after ((runningAt 0xFDFF 0x3000).setReg .R0 0xAAAA) (fun t => (t.memWord 0xFE00, t.memRead 0xFE00)) =
      some (0xAAAA, 0) := by decide
/-- ST3. -/
theorem test_sti :
    after ({ running 0xB201 with mem := [(0x3000, 0xB201), (0x3002, 0x4000)] }.setReg .R1 0xBEEF)
      (fun t => t.memWord 0x4000) = some 0xBEEF := by decide
/-- ST4: the pointer is overwritten. -/
theorem test_sti_self :
    after ({ running 0xB200 with mem := [(0x3000, 0xB200), (0x3001, 0x3001)] }.setReg .R1 0xBEEF)
      (fun t => t.memWord 0x3001) = some 0xBEEF := by decide
/-- ST5: offset6 = 100000 is -32. -/
theorem test_str :
    after (((running 0x7AA0).setReg .R2 0x4000).setReg .R5 0x00AA) (fun t => t.memWord 0x3FE0) =
      some 0x00AA := by decide
/-- ST6: SR = BaseR. -/
theorem test_str_same_register :
    after ((running 0x7481).setReg .R2 0x4000) (fun t => t.memWord 0x4001) = some 0x4000 := by decide

/-! ## TRAP and the services -/

/-- TR2: zero-extended, no output, Condition kept. -/
theorem test_getc :
    after { running 0xF020 with input := [0xE9, 0x41] }
      (fun t => (t.reg .R0, t.cond, t.input, t.output)) = some (0x00E9, .zero, [0x41], []) := by decide
/-- TR15: held, nothing changed but the request. -/
theorem test_getc_held :
    after (running 0xF020) id = some { running 0xF020 with inputRequested := true } := by decide
/-- TR14: OUT under TRAP_LINKS_R7. -/
theorem test_out_links :
    after ((linking 0xF021).setReg .R0 0x0041) (fun t => (t.output, t.reg .R7, t.pc)) =
      some ([0x41], 0x3001, 0x3001) := by decide
/-- TR3. -/
theorem test_out : after ((running 0xF021).setReg .R0 0x0141) State.output = some [0x41] := by decide
/-- TR4. -/
theorem test_puts :
    after ({ running 0xF022 with mem := [(0x3000, 0xF022), (0x4000, 0x48), (0x4001, 0x69)] }.setReg .R0 0x4000)
      State.output = some [0x48, 0x69] := by decide
/-- TR6: the walk wraps. -/
theorem test_puts_wraps :
    after ({ running 0xF022 with mem := [(0, 0x42), (0x3000, 0xF022), (0xFFFF, 0x41)] }.setReg .R0 0xFFFF)
      State.output = some [0x41, 0x42] := by decide
/-- TR7, with a prompt and under TRAP_INPUT_SETS_CC. -/
theorem test_in :
    after { linking 0xF023 with
        params := { (linking 0xF023).params with inPrompt := [0x3E] }, input := [0x79] }
      (fun t => (t.output, t.reg .R0, t.cond)) = some ([0x3E, 0x79], 0x79, .positive) := by decide
/-- R211: a held IN has shown its prompt and does not show it again. -/
theorem test_in_held_once :
    after { running 0xF023 with
        params := { params with inPrompt := [0x3E] }, output := [0x3E], inputRequested := true }
      (fun t => (t.output, t.pc)) = some ([0x3E], 0x3000) := by decide
/-- TR8. -/
theorem test_putsp :
    after ({ running 0xF024 with
        mem := [(0x3000, 0xF024), (0x4000, 0x6948), (0x4001, 0x0021)] }.setReg .R0 0x4000)
      State.output = some [0x48, 0x69, 0x21] := by decide
/-- R207: a zero low byte is output. -/
theorem test_putsp_low_zero :
    after ({ running 0xF024 with mem := [(0x3000, 0xF024), (0x4000, 0x4800)] }.setReg .R0 0x4000)
      State.output = some [0x00, 0x48] := by decide
/-- TR9, TR10. -/
theorem test_halt :
    after (running 0xFF25) (fun t => (t.runState, t.haltCause, t.pc)) =
      some (.halted, .haltTrap, 0x3001) := by decide
/-- TR12: R7 is linked before the fault. -/
theorem test_trap_fault_links :
    after ((linking 0xF026).setReg .R7 0x1111) (fun t => (t.haltCause, t.reg .R7)) =
      some (.badTrapVector 0x26, 0x3001) := by decide
/-- TR11. -/
theorem test_trap_fault :
    after ((running 0xF026).setReg .R7 0x1111) (fun t => (t.runState, t.haltCause, t.reg .R7)) =
      some (.halted, .badTrapVector 0x26, 0x1111) := by decide

/-! ## Reserved opcodes, HALTED, the load -/

/-- RS2. -/
theorem test_rti : after (running 0x8FFF) (fun t => (t.runState, t.haltCause, t.pc)) =
    some (.halted, .illegalOpcode 0x8, 0x3001) := by decide
/-- RS4. -/
theorem test_res : after (running 0xDFFF) (fun t => (t.runState, t.haltCause, t.pc)) =
    some (.halted, .illegalOpcode 0xD, 0x3001) := by decide
/-- E7: no further fetch. -/
theorem test_halted_stops : after ((running 0x1042).enterHalted .haltTrap) State.pc = none := by decide
/-- V-LO: no wrap past 0xFFFF. -/
theorem test_load_no_wrap :
    (State.reset.load [0xFF, 0xFF, 0x00, 0x01, 0x00, 0x02]).map (fun t => (t.mem, t.pc)) =
      some ([(0xFFFF, 1)], 0xFFFF) := by decide
/-- V-LO: a trailing byte is ignored. -/
theorem test_load_trailing_byte :
    (State.boot [0x40, 0x00, 0x12, 0x34, 0x56]).map (fun t => (t.mem, t.pc)) =
      some ([(0x4000, 0x1234)], 0x4000) := by decide

/-! ## The first step after reset -/

/-- Every row of the opcode table is decoded from its word and runs as the first step after reset. -/
theorem test_first_step :
    ([0x1000, 0x1020, 0x5000, 0x5020, 0x9000, 0x0000, 0xC000, 0xC1C0, 0x4800, 0x4000, 0x2000, 0xA000, 0x6000,
      0xE000, 0x3000, 0xB000, 0x7000, 0xF000, 0xF020, 0xF021, 0xF022, 0xF023, 0xF024, 0xF025, 0x8000,
      0xD000] : List Nat).all (fun w =>
        (after (State.reset.withFetchWord 16 w) (fun _ => ())).isSome) = true := by decide

/-! ## Witnesses: a state and operands that meet the premises of each statement

A statement with several clauses has one for each, at a boundary of its range. Statements with no
premise have none. -/

/-- DecodeEncodeRoundTrip: the two forms WellFormed checks. -/
theorem test_premises_DecodeEncodeRoundTrip :
    (Instr.jmp .R6).wellFormed = true ∧ (Instr.trap 0x1F).wellFormed = true ∧
      (Instr.trap 0x26).wellFormed = true ∧ (Instr.addI .R7 .R0 (-16)).wellFormed = true := by decide

/-- OperateFormatFields: a word for each clause. -/
theorem test_premises_OperateFormatFields :
    ((0x1FDF : Word).toNat / 4096 = 0x1 ∧ (0x1FDF : Word).toNat / 32 % 2 = 0) ∧
    ((0x5000 : Word).toNat / 4096 = 0x5 ∧ (0x5000 : Word).toNat / 32 % 2 = 0) ∧
    ((0x1FFF : Word).toNat / 4096 = 0x1 ∧ (0x1FFF : Word).toNat / 32 % 2 = 1) ∧
    ((0x5FF0 : Word).toNat / 4096 = 0x5 ∧ (0x5FF0 : Word).toNat / 32 % 2 = 1) ∧
    (0x9FFF : Word).toNat / 4096 = 0x9 := by decide

/-- ControlFormatFields: a word for each clause, JMP's at BaseR = 6 and 7. -/
theorem test_premises_ControlFormatFields :
    (0x0FFF : Word).toNat / 4096 = 0x0 ∧ (0xC180 : Word).toNat / 4096 = 0xC ∧
    (0xC1C0 : Word).toNat / 4096 = 0xC ∧
    ((0x4FFF : Word).toNat / 4096 = 0x4 ∧ (0x4FFF : Word).toNat / 2048 % 2 = 1) ∧
    ((0x47FF : Word).toNat / 4096 = 0x4 ∧ (0x47FF : Word).toNat / 2048 % 2 = 0) := by decide

/-- MemoryAndTrapFormatFields: a word for each clause, TRAP's on both sides of the six vectors. -/
theorem test_premises_MemoryAndTrapFormatFields :
    ([0x2FFF, 0xAFFF, 0xEFFF, 0x3FFF, 0xBFFF, 0x6FFF, 0x7FFF, 0xF01F, 0xF020, 0xF025, 0xF026, 0x8FFF,
      0xDFFF] : List Word).map (fun w => w.toNat / 4096) =
      [0x2, 0xA, 0xE, 0x3, 0xB, 0x6, 0x7, 0xF, 0xF, 0xF, 0xF, 0x8, 0xD] := by decide

/-- IgnoredBitsChangeNothing: each clause with every bit of its mask set. -/
theorem test_premises_IgnoredBitsChangeNothing :
    ((0x1FC7 : Word).toNat / 4096 = 0x1 ∧ (0x1FC7 : Word).getLsbD 5 = false ∧ (0x0018 : Word) &&& 0xFFE7 = 0) ∧
    ((0x9FC0 : Word).toNat / 4096 = 0x9 ∧ (0x003F : Word) &&& 0xFFC0 = 0) ∧
    ((0xC1C0 : Word).toNat / 4096 = 0xC ∧ (0x0E3F : Word) &&& 0xF1C0 = 0) ∧
    ((0x41C0 : Word).toNat / 4096 = 0x4 ∧ (0x41C0 : Word).getLsbD 11 = false ∧ (0x063F : Word) &&& 0xF9C0 = 0) ∧
    ((0xF0FF : Word).toNat / 4096 = 0xF ∧ (0x0F00 : Word) &&& 0xF0FF = 0) ∧
    ((0x8000 : Word).toNat / 4096 = 0x8 ∧ (0x0FFF : Word) &&& 0xF000 = 0) := by decide

/-- StepRunsDecodedInstruction: a pc just below, between and above the keyboard registers. -/
theorem test_premises_StepRunsDecodedInstruction :
    [0xFDFF, 0xFE01, 0xFE03].all (fun pc : Word =>
      decide ((runningAt pc 0x1042).runState = .running ∧ pc ≠ 0xFE00 ∧ pc ≠ 0xFE02)) = true := by decide

/-- HaltedBlockHasNoStep. -/
theorem test_premises_HaltedBlockHasNoStep :
    ((running 0).enterHalted .haltTrap).runState = .halted := by decide

/-- StepHaltsExactlyOnFaultsAndHalt: every clause, at the ends of the six vectors. -/
theorem test_premises_StepHaltsExactlyOnFaultsAndHalt :
    [0x8000, 0xDFFF, 0xF01F, 0xF020, 0xF024, 0xF025, 0xF026, 0xF0FF, 0x0000].all (fun w : Word =>
      decide ((running w).runState = .running ∧ (running w).haltCause = .none ∧ (running w).fetchWord = w)) =
      true := by decide

/-- FaultsArePrecise: a TRAP fault that links R7, and RTI. -/
theorem test_premises_FaultsArePrecise :
    (linking 0xF026).haltCause = .none ∧ (running 0x8000).haltCause = .none ∧
    after (linking 0xF026) (fun t => t.haltCause.isFault) = some true ∧
    after (running 0x8000) (fun t => t.haltCause.isFault) = some true := by decide

/-- StepKeepsInvariant: a state that has it, and a step that stores. -/
theorem test_premises_StepKeepsInvariant :
    ((running 0x3604).setReg .R3 0x1234).Inv ∧
      (after ((running 0x3604).setReg .R3 0x1234) id).isSome = true := by decide

/-- StepKeepsHeldRequest: a held GETC, and a state with no request. -/
theorem test_premises_StepKeepsHeldRequest :
    { running 0xF020 with inputRequested := true }.HeldInv ∧ (running 0x1042).HeldInv ∧
      (after { running 0xF020 with inputRequested := true } id).isSome = true := by decide

/-- RegistersWrittenByInstruction, with a register that is not written. -/
theorem test_premises_RegistersWrittenByInstruction :
    (∃ t, exec (.ld .R1 2) (running 0) = .next t) ∧ .R7 ∉ registersWritten true (.ld .R1 2) :=
  ⟨⟨_, rfl⟩, by decide⟩

/-- ConditionWriters: a case for each clause. -/
theorem test_premises_ConditionWriters :
    resultReg (.lea .R1 0) = some .R1 ∧ Instr.getc.asksInput = true ∧
    ¬ { running 0xF020 with input := [0x41] }.noCharacter ∧ (running 0xF020).noCharacter ∧
    (Instr.st .R0 0).asksInput = false ∧ resultReg (.st .R0 0) = none ∧
    (after { running 0xF020 with input := [0x41] } id).isSome = true := by decide

/-- OnlyBranchReadsCondition. -/
theorem test_premises_OnlyBranchReadsCondition :
    (∀ n z p off9, Instr.not .R0 .R0 ≠ .br n z p off9) ∧
      ∃ t, exec (.not .R0 .R0) (running 0) = .next t :=
  ⟨by intros; simp, _, rfl⟩

/-- MemoryWrittenOnlyByStores: a store and an instruction that stores nothing. -/
theorem test_premises_MemoryWrittenOnlyByStores :
    (running 0x1042).mem.wf = true ∧ (running 0xB201).mem.wf = true ∧
    stored (running 0x1042) (.sti .R1 1) = some (0, 0) ∧ stored (running 0x1042) (.not .R0 .R0) = none := by decide

/-- PcAdvancesWithoutTransfer: an instruction that completes, and one that is held. -/
theorem test_premises_PcAdvancesWithoutTransfer :
    transfersControl (decode (running 0x1042).fetchWord) = false ∧
    transfersControl (decode (running 0xF020).fetchWord) = false ∧
    (after (running 0x1042) id).isSome = true ∧ (running 0xF020).noCharacter := by decide

/-- StoreSeenByNextFetch: ST, STI and STR at the address fetched next. -/
theorem test_premises_StoreSeenByNextFetch :
    stored ((running 0x1042).setReg .R3 0x1042) (.st .R3 0) = some (0x3000, 0x1042) ∧
    stored { running 0x1042 with mem := [(0x3001, 0x3000)] } (.sti .R3 1) = some (0x3000, 0) ∧
    stored ((running 0x1042).setReg .R2 0x3001) (.str .R3 .R2 (-1)) = some (0x3000, 0) ∧
    (running 0x1042).pc ≠ (running 0x1042).params.kbsrAddr ∧ (running 0x1042).pc ≠ (running 0x1042).params.kbdrAddr ∧
    (running 0x1042).mem.wf = true := by decide

/-- ReadAfterWrite: a memory with a cell. -/
theorem test_premises_ReadAfterWrite : (running 0x1042).mem.wf = true := by decide

/-- ReadTakesFreshDraw: an address beside KBDR_ADDR, and KBDR_ADDR. -/
theorem test_premises_ReadTakesFreshDraw :
    (0xFE01 : Word) ≠ params.kbdrAddr ∧ (0xFE02 : Word) = params.kbdrAddr ∧
      (0xFE02 : Word) ≠ params.kbsrAddr := by decide

/-- MemoryDeterminedByReads: two memories in canonical form built in different orders. -/
theorem test_premises_MemoryDeterminedByReads :
    Memory.wf ((Memory.write [] 0xFFFF 1).write 0 2) = true ∧
      Memory.wf ((Memory.write [] 0 2).write 0xFFFF 1) = true ∧
      (Memory.write [] 0xFFFF 1).write 0 2 = (Memory.write [] 0 2).write 0xFFFF 1 := by decide

/-- InputTakenOnlyByGetcAndIn: a step that takes a character. -/
theorem test_premises_InputTakenOnlyByGetcAndIn :
    after { running 0xF023 with input := [0x79] } State.input = some [] := by decide

/-- OutputAppendedOnlyByServices: an instruction that does not write output. -/
theorem test_premises_OutputAppendedOnlyByServices :
    writesOutput (decode (running 0xF020).fetchWord) = false ∧ (after (running 0xF020) id).isSome = true := by
  decide

/-- LdLoadsPcRelative: the least offset, and an address that wraps. -/
theorem test_premises_LdLoadsPcRelative :
    IsSum 0x2F00 0x3000 (-256 : BitVec 9).toInt ∧ IsSum 0x00FE 0xFFFF (255 : BitVec 9).toInt := by
  unfold IsSum; decide

/-- LdiLoadsIndirect: an address that wraps below zero. -/
theorem test_premises_LdiLoadsIndirect : IsSum 0xFF00 0x0000 (-256 : BitVec 9).toInt := by
  unfold IsSum; decide

/-- LdrLoadsBaseOffset: both ends of the offset. -/
theorem test_premises_LdrLoadsBaseOffset :
    IsSum 0xFFE0 0x0000 (-32 : BitVec 6).toInt ∧ IsSum 0x401F 0x4000 (31 : BitVec 6).toInt := by
  unfold IsSum; decide

/-- StStoresPcRelative, StiStoresIndirect, StrStoresBaseOffset. -/
theorem test_premises_stores : ((running 0x3604).setReg .R3 0x1234).mem.wf = true := by decide

/-- TrapSelectsService: the vectors beside the six. -/
theorem test_premises_TrapSelectsService :
    (0x1F : Byte).toNat < 0x20 ∧ 0x25 < (0x26 : Byte).toNat := by decide

/-- GetcReadsCharacter and InEchoesCharacter. -/
theorem test_premises_GetcReadsCharacter :
    { running 0xF020 with input := [0xFF] }.input = 0xFF :: [] := by decide

/-- PutsWritesString and PutspWritesPackedString: a string of two words, and an empty one. -/
theorem test_premises_PutsWritesString :
    StringEndsAt ({ running 0xF022 with mem := [(0, 0x42), (0xFFFF, 0x41)] }.setReg .R0 0xFFFF) 2 ∧
      StringEndsAt (running 0xF022) 0 := by
  unfold StringEndsAt stringWord; decide

/-- EndOfInputGivesParameter. -/
theorem test_premises_EndOfInputGivesParameter :
    let s := { running 0xF020 with inputEnded := true, params := { params with inputEnd := .value 0xFFFF } }
    s.input = [] ∧ s.inputEnded = true ∧ s.params.inputEnd = .value 0xFFFF := by decide

/-- InputWaitHoldsStep: waiting for the host, and at the end of the input under Stuck. -/
theorem test_premises_InputWaitHoldsStep :
    (running 0xF020).runState = .running ∧ (running 0xF020).noCharacter ∧
    { running 0xF023 with inputEnded := true }.noCharacter ∧
    decode (running 0xF020).fetchWord = .getc ∧
    decode { running 0xF023 with inputEnded := true }.fetchWord = .inChar := by decide

/-- HeldStepResumesAsIfUnheld. -/
theorem test_premises_HeldStepResumesAsIfUnheld :
    (running 0xF023).runState = .running ∧ (running 0xF023).noCharacter ∧
    (running 0xF023).inputEnded = false ∧ (decode (running 0xF023).fetchWord).asksInput = true ∧
    (after (running 0xF023) id).isSome = true := by decide

/-- LoadPlacesImage. -/
theorem test_premises_LoadPlacesImage : State.reset.mem.wf = true := by decide

end Sys2Proof.Tests
end

/-! # What an instruction can do

The lemmas under the statements about the state: what each instruction can do, said once as the
relation `Effect`, and the tables of the claims over it. -/

namespace Sys2Proof.Machine

open Sys2Proof.Claims

/-! ## The count of draws -/

/-- The model's count of draws at another value (log entry 4): what the reads of a step leave. -/
def State.setDraws (s : State) (k : Nat) : State := { s with draws := k }

section
variable (s : State) (k : Nat)

@[simp] theorem State.setDraws_mem : (s.setDraws k).mem = s.mem := rfl
@[simp] theorem State.setDraws_regs : (s.setDraws k).regs = s.regs := rfl
@[simp] theorem State.setDraws_pc : (s.setDraws k).pc = s.pc := rfl
@[simp] theorem State.setDraws_cond : (s.setDraws k).cond = s.cond := rfl
@[simp] theorem State.setDraws_runState : (s.setDraws k).runState = s.runState := rfl
@[simp] theorem State.setDraws_haltCause : (s.setDraws k).haltCause = s.haltCause := rfl
@[simp] theorem State.setDraws_input : (s.setDraws k).input = s.input := rfl
@[simp] theorem State.setDraws_inputEnded : (s.setDraws k).inputEnded = s.inputEnded := rfl
@[simp] theorem State.setDraws_inputRequested :
    (s.setDraws k).inputRequested = s.inputRequested := rfl
@[simp] theorem State.setDraws_output : (s.setDraws k).output = s.output := rfl
@[simp] theorem State.setDraws_params : (s.setDraws k).params = s.params := rfl
@[simp] theorem State.setDraws_draws : (s.setDraws k).draws = k := rfl
@[simp] theorem State.setDraws_reg (r : Reg) : (s.setDraws k).reg r = s.reg r := rfl
@[simp] theorem State.setDraws_memWord (a : Word) : (s.setDraws k).memWord a = s.memWord a := rfl

end

/-! ## Output and input -/

theorem State.outputBytes_nil (s : State) : s.outputBytes [] = s := by
  simp [State.outputBytes]

theorem State.outputBytes_outputBytes (s : State) (bs cs : List Byte) :
    (s.outputBytes bs).outputBytes cs = s.outputBytes (bs ++ cs) := by
  simp [State.outputBytes]

/-- A walk appends some bytes and takes some draws (R205, R207). -/
theorem State.walkString_eq (f : Word → List Byte) (n : Nat) (a : Word) (s : State) :
    ∃ bs k, State.walkString f n a s = (s.outputBytes bs).setDraws k := by
  obtain ⟨bs, hbs⟩ := State.walkString_output s f n a
  exact ⟨bs, _, (State.walkString_frame s f n a).trans (by rw [← hbs]; rfl)⟩

/-- `InputChar()` waits exactly while no character can be returned (R36). -/
theorem State.inputWord_eq_none_iff (s : State) : s.inputWord = none ↔ s.noCharacter := by
  refine ⟨fun h => ?_, fun ⟨hi, he⟩ => s.inputWord_none hi he⟩
  cases hi : s.input with
  | cons c rest => rw [State.inputWord_cons s hi] at h; cases h
  | nil =>
    refine ⟨hi, ?_⟩
    cases he : s.inputEnded with
    | false => exact .inl rfl
    | true =>
      cases hp : s.params.inputEnd with
      | stuck => exact .inr rfl
      | value w => rw [State.inputWord_value s hi he hp] at h; cases h

/-- The port after a character has been returned: the oldest is taken, or the source has ended and
there was none to take (R36). -/
theorem State.input_tail (s : State) :
    s.input.tail = s.input ∨ ∃ c, s.input = c :: s.input.tail := by
  cases s.input with
  | nil => exact .inl rfl
  | cons c rest => exact .inr ⟨c, rfl⟩

/-- The flag SetCC writes reflects the value (R27). -/
theorem reflects_condOf (v : Word) : Reflects (condOf v) v :=
  ⟨condOf_eq_zero v, condOf_eq_negative v, condOf_eq_positive v⟩

/-- GETC and IN, given a word, set Condition as the parameter says (R210). -/
theorem inputCondition_took (s : State) (bs : List Byte) (w : Word) :
    InputCondition s
      (((s.outputBytes bs).afterInput.linkTrap.setReg .R0 w).setCCInput w) := by
  unfold InputCondition
  split
  · next hp => simpa [hp] using reflects_condOf w
  · next hp => simp [hp]

/-! ## The instructions that run a service -/

/-- TRAP with the service's vector, or the service by its name (log entry 17). -/
def RunsService (i : Instr) (v : Service) : Prop :=
  i = .trap (serviceCode v) ∨ i = trapInstr (serviceCode v)

theorem exec_of_runsService {i : Instr} {v : Service} (h : RunsService i v) (s : State) :
    exec i s = .next (s.runService v) := by
  rcases h with rfl | rfl <;> cases v <;> rfl

/-- A vector outside the six raises its fault after the link (R202, R242). -/
theorem exec_trap_of_serviceOf_none {vec : Byte} (h : serviceOf vec = none) (s : State) :
    exec (.trap vec) s = .next (s.linkTrap.raise (.badTrapVector vec)) := by
  simp [exec, execTrap, h]

theorem opcode_of_runsService {i : Instr} {v : Service} (h : RunsService i v) : i.opcode = 0xF := by
  rcases h with rfl | rfl <;> cases v <;> rfl

theorem asksInput_of_runsService {i : Instr} {v : Service} (h : RunsService i v) :
    i.asksInput = decide (v = .getc ∨ v = .inChar) := by
  rcases h with rfl | rfl <;> cases v <;> rfl

theorem writesOutput_of_runsService {i : Instr} {v : Service} (h : RunsService i v) :
    writesOutput i = decide (v ≠ .getc ∧ v ≠ .halt) := by
  rcases h with rfl | rfl <;> cases v <;> rfl

/-! ## The tables of the claims -/

/-- A vector outside the six asks for no character (R202). -/
theorem asksInput_of_serviceOf_none {vec : Byte} (h : serviceOf vec = none) :
    (Instr.trap vec).asksInput = false := by
  refine decide_eq_false ?_
  rintro (rfl | rfl) <;> cases h

theorem resultReg_of_opcode_trap {i : Instr} (h : i.opcode = 0xF) : resultReg i = none := by
  cases i <;> simp_all [Instr.opcode, resultReg]

theorem opcode_of_asksInput {i : Instr} (h : i.asksInput = true) : i.opcode = 0xF := by
  cases i <;> simp_all [Instr.opcode, Instr.asksInput]

theorem opcode_of_writesOutput {i : Instr} (h : writesOutput i = true) : i.opcode = 0xF := by
  cases i <;> simp_all [Instr.opcode, writesOutput]

theorem registersWritten_of_resultReg {i : Instr} {dr : Reg} (links : Bool)
    (h : resultReg i = some dr) : registersWritten links i = [dr] := by
  cases i <;> simp_all [registersWritten, resultReg]

theorem asksInput_of_resultReg {i : Instr} {dr : Reg} (h : resultReg i = some dr) :
    i.asksInput = false := by
  cases i <;> simp_all [Instr.asksInput, resultReg]

/-- A store is none of the writers of Condition (R28, R183). -/
theorem resultReg_asksInput_of_stored {i : Instr} {s : State} {p : Word × Word}
    (h : stored s i = some p) :
    resultReg i = none ∧ i.asksInput = false := by
  cases i <;> simp_all [Instr.asksInput, resultReg, stored]

/-- A transfer of control is none of the writers of Condition (R28). -/
theorem resultReg_asksInput_of_transfersControl {i : Instr} (h : transfersControl i = true) :
    resultReg i = none ∧ i.asksInput = false := by
  cases i <;> simp_all [Instr.asksInput, resultReg, transfersControl]

/-- GETC and IN write R0 (R203, R206). -/
theorem R0_mem_registersWritten {i : Instr} (links : Bool) (h : i.asksInput = true) :
    .R0 ∈ registersWritten links i := by
  cases i <;> cases links <;> simp_all [Instr.asksInput, registersWritten]

/-- TRAP writes R7 where it links (R201). -/
theorem R7_mem_registersWritten {i : Instr} (h : i.opcode = 0xF) :
    .R7 ∈ registersWritten true i := by
  cases i <;> simp_all [Instr.opcode, registersWritten]

/-- The link of TRAP changes no register that the table does not list (R201). -/
theorem State.linkTrap_reg {i : Instr} (s : State) (h : i.opcode = 0xF) {r : Reg}
    (hr : r ∉ registersWritten s.params.trapLinksR7 i) : s.linkTrap.reg r = s.reg r := by
  rw [State.linkTrap_eq, State.setReg_reg]
  split
  · next h7 =>
    subst h7
    split
    · next hl => rw [hl] at hr; exact absurd (R7_mem_registersWritten h) hr
    · rfl
  · rfl

/-! ## The effect of an instruction -/

/-- What an instruction may leave, run in the state `s` after the fetch. -/
inductive Effect (s : State) : Instr → State → Prop
  /-- R[DR] and Condition (R120 to R124, R160 to R163). -/
  | result {i dr} (v k) (hi : resultReg i = some dr) : Effect s i ((s.setResult dr v).setDraws k)
  /-- One word of memory (R180 to R182). -/
  | store {i ea v} (k) (hi : stored s i = some (ea, v)) :
      Effect s i ((s.memWrite ea v).setDraws k)
  /-- The pc: BR, JMP, RET (R140 to R143). -/
  | jump {i} (p) (hi : transfersControl i = true) : Effect s i (s.setPc p)
  /-- R7 and the pc: JSR, JSRR (R144, R145). -/
  | link {i} (p) (hi : transfersControl i = true)
      (h7 : ∀ links, registersWritten links i = [.R7]) :
      Effect s i ((s.setReg .R7 s.pc).setPc p)
  /-- A GETC or IN that waits (R211). -/
  | held {i} (bs) (hi : i.asksInput = true) (hn : s.inputWord = none)
      (hb : writesOutput i = false → bs = []) : Effect s i (s.outputBytes bs).hold
  /-- A GETC or IN that is given a word (R203, R206). -/
  | took {i} (c bs) (hi : i.asksInput = true) (hc : s.inputWord = some c)
      (hb : writesOutput i = false → bs = []) :
      Effect s i (((s.outputBytes bs).afterInput.linkTrap.setReg .R0 c).setCCInput c)
  /-- OUT, PUTS, PUTSP (R204, R205, R207). -/
  | wrote {i} (bs k) (hi : writesOutput i = true) (ha : i.asksInput = false) :
      Effect s i ((s.linkTrap.outputBytes bs).setDraws k)
  /-- HALT (R208). -/
  | haltTrap {i} (hi : RunsService i .halt) : Effect s i (s.linkTrap.enterHalted .haltTrap)
  /-- A vector outside the six (R202). -/
  | badVector (vec) (hv : serviceOf vec = none) :
      Effect s (.trap vec) (s.linkTrap.enterHalted (.badTrapVector vec))
  /-- RTI and RES (R230, R231). -/
  | reserved {i} (hi : i = .rti ∨ i = .res) :
      Effect s i (s.enterHalted (.illegalOpcode i.opcode))

/-- What a service does is an effect of every instruction that runs it (R203 to R208, R211). -/
theorem effect_runService {i : Instr} {v : Service} (h : RunsService i v) (s : State) :
    Effect s i (s.runService v) := by
  have ha := asksInput_of_runsService h
  have hw := writesOutput_of_runsService h
  cases v with
  | getc =>
    show Effect s i s.serviceGetc
    cases hc : s.inputWord with
    | none =>
      have he : Effect s i (s.outputBytes []).hold := .held [] ha hc fun _ => rfl
      rwa [s.outputBytes_nil, ← s.serviceGetc_none hc] at he
    | some c =>
      have he := Effect.took (s := s) c [] ha hc fun _ => rfl
      rwa [s.outputBytes_nil, ← s.serviceGetc_some hc] at he
  | inChar =>
    show Effect s i s.serviceIn
    cases hc : s.inputWord with
    | none =>
      rw [s.serviceIn_none hc]
      exact .held _ ha hc fun h => nomatch hw.symm.trans h
    | some c =>
      have he := Effect.took (s := s) c
        ((if s.inputRequested then [] else s.params.inPrompt) ++ [lowByte c]) ha hc
        fun h => nomatch hw.symm.trans h
      rw [← s.outputBytes_outputBytes] at he
      rw [s.serviceIn_some hc]
      exact he
  | out => exact .wrote [lowByte (s.reg .R0)] s.draws hw ha
  | puts =>
    obtain ⟨bs, k, hs⟩ := State.walkString_eq putsBytes walkFuel (s.reg .R0) s.linkTrap
    rw [State.runService, State.servicePuts, hs]
    exact .wrote bs k hw ha
  | putsp =>
    obtain ⟨bs, k, hs⟩ := State.walkString_eq putspBytes walkFuel (s.reg .R0) s.linkTrap
    rw [State.runService, State.servicePutsp, hs]
    exact .wrote bs k hw ha
  | halt => exact .haltTrap h

theorem effect_trap (vec : Byte) {s t : State} (h : exec (.trap vec) s = .next t) :
    Effect s (.trap vec) t := by
  cases hv : serviceOf vec with
  | some v =>
    have hr : RunsService (.trap vec) v := .inl (by rw [serviceOf_some hv])
    rw [exec_of_runsService hr] at h
    cases h
    exact effect_runService hr s
  | none =>
    rw [exec_trap_of_serviceOf_none hv] at h
    cases h
    exact .badVector vec hv

/-- Every next state of an instruction is one of its effects. -/
theorem exec_effect {i : Instr} {s t : State} (h : exec i s = .next t) : Effect s i t := by
  cases i with
  | addR | addI | andR | andI | not | ld | ldi | ldr | lea => cases h; exact .result _ _ rfl
  | st | sti | str => cases h; exact .store _ rfl
  | br | jmp | ret => cases h; exact .jump _ rfl
  | jsr | jsrr => cases h; exact .link _ rfl fun _ => rfl
  | trap vec => exact effect_trap vec h
  | getc => cases h; exact effect_runService (v := .getc) (.inr rfl) s
  | out => cases h; exact effect_runService (v := .out) (.inr rfl) s
  | puts => cases h; exact effect_runService (v := .puts) (.inr rfl) s
  | inChar => cases h; exact effect_runService (v := .inChar) (.inr rfl) s
  | putsp => cases h; exact effect_runService (v := .putsp) (.inr rfl) s
  | halt => cases h; exact effect_runService (v := .halt) (.inr rfl) s
  | rti | res => cases h; exact .reserved (by simp)

end Sys2Proof.Machine

/-! # The statements about the state -/

namespace Sys2Proof.Machine

open Sys2Proof.Claims

/-! ## The invariant of the machine -/

theorem State.causeMatchesRun_enterHalted (s : State) {cause : HaltCause} (h : cause ≠ .none) :
    (s.enterHalted cause).CauseMatchesRun :=
  iff_of_false h nofun

/-- An instruction keeps memory's canonical form, and a halt cause exactly while HALTED. -/
theorem Effect.keeps_inv {i : Instr} {s t : State} (h : Effect s i t) (hi : s.Inv) : t.Inv := by
  obtain ⟨hm, hc⟩ := hi
  cases h with
  | result | jump | link | held | took | wrote => exact ⟨hm, hc⟩
  | store k hst => exact ⟨State.memWrite_wf hm _ _, hc⟩
  | haltTrap | badVector | reserved => exact ⟨hm, State.causeMatchesRun_enterHalted _ nofun⟩

/-- Settles O13: a step is an effect of the decoded instruction on the fetched state. -/
theorem stepKeepsInvariant : Obligations.StepKeepsInvariant := by
  unfold Obligations.StepKeepsInvariant
  intro s t hs h
  obtain ⟨-, he⟩ := step_next h
  exact (exec_effect he).keeps_inv hs

/-! ## The registers -/

/-- The register frame of all instructions (R23). -/
theorem Effect.sameRegsBut {i : Instr} {s t : State} (h : Effect s i t) :
    SameRegsBut (registersWritten s.params.trapLinksR7 i) s t := by
  intro r hr
  cases h with
  | result v k hi =>
    rw [registersWritten_of_resultReg _ hi, List.mem_singleton] at hr
    simp [hr]
  | store | jump | held | reserved => rfl
  | link p hi h7 =>
    rw [h7, List.mem_singleton] at hr
    simp [hr]
  | took c bs hi =>
    have h0 : r ≠ .R0 := fun h0 => hr (h0 ▸ R0_mem_registersWritten _ hi)
    rw [State.setCCInput_reg, State.setReg_reg, if_neg h0]
    exact s.linkTrap_reg (opcode_of_asksInput hi) hr
  | wrote bs k hi => exact s.linkTrap_reg (opcode_of_writesOutput hi) hr
  | haltTrap hi => exact s.linkTrap_reg (opcode_of_runsService hi) hr
  | badVector vec => exact s.linkTrap_reg (i := .trap vec) rfl hr

/-- Settles O17, case by case over the effects. -/
theorem registersWrittenByInstruction : Obligations.RegistersWrittenByInstruction := by
  unfold Obligations.RegistersWrittenByInstruction
  exact fun _ _ _ h => (exec_effect h).sameRegsBut

/-! ## The Condition register -/

/-- An instruction sets Condition from its result, or is GETC or IN, or leaves Condition alone. -/
theorem Effect.cond_cases {i : Instr} {s t : State} (h : Effect s i t) :
    (∃ dr, resultReg i = some dr ∧ i.asksInput = false ∧ Reflects t.cond (t.reg dr)) ∨
    (resultReg i = none ∧ i.asksInput = true ∧ ¬ s.noCharacter ∧ InputCondition s t) ∨
    (resultReg i = none ∧ (i.asksInput = true → s.noCharacter) ∧ t.cond = s.cond) := by
  cases h with
  | @result _ dr v k hi =>
    refine .inl ⟨dr, hi, asksInput_of_resultReg hi, ?_⟩
    simpa using reflects_condOf v
  | store k hi =>
    obtain ⟨hr, ha⟩ := resultReg_asksInput_of_stored hi
    exact .inr (.inr ⟨hr, by simp [ha], rfl⟩)
  | jump p hi | link p hi =>
    obtain ⟨hr, ha⟩ := resultReg_asksInput_of_transfersControl hi
    exact .inr (.inr ⟨hr, by simp [ha], rfl⟩)
  | held bs hi hn =>
    exact .inr (.inr ⟨resultReg_of_opcode_trap (opcode_of_asksInput hi),
      fun _ => s.inputWord_eq_none_iff.mp hn, rfl⟩)
  | took c bs hi hc =>
    have hn : ¬ s.noCharacter := by rw [← s.inputWord_eq_none_iff, hc]; nofun
    exact .inr (.inl ⟨resultReg_of_opcode_trap (opcode_of_asksInput hi), hi, hn,
      inputCondition_took s bs c⟩)
  | wrote bs k hi ha =>
    exact .inr (.inr ⟨resultReg_of_opcode_trap (opcode_of_writesOutput hi), by simp [ha], rfl⟩)
  | haltTrap hi =>
    exact .inr (.inr ⟨resultReg_of_opcode_trap (opcode_of_runsService hi),
      by simp [asksInput_of_runsService hi], rfl⟩)
  | badVector vec hv =>
    exact .inr (.inr ⟨rfl, by simp [asksInput_of_serviceOf_none hv], rfl⟩)
  | reserved hi => rcases hi with rfl | rfl <;> exact .inr (.inr ⟨rfl, nofun, rfl⟩)

/-- Settles O18, by the three kinds of instruction that `Effect.cond_cases` tells apart. -/
theorem conditionWriters : Obligations.ConditionWriters := by
  unfold Obligations.ConditionWriters
  intro i s t h
  obtain ⟨dr, hr, ha, hc⟩ | ⟨hr, ha, hn, hc⟩ | ⟨hr, ha, hc⟩ := (exec_effect h).cond_cases
  · simp [hr, ha, hc]
  · simp [hr, ha, hn, hc]
  · simp +contextual [hr, ha, hc]

/-! ## Condition read by BR alone -/

/-- `u`, left with the flag `c` in place of that of `s`, is `t` but for Condition, which is the same
in both unless each left it alone (R29). -/
def SameButCond (c : Cond) (s t u : State) : Prop :=
  u = { t with cond := u.cond } ∧ (u.cond = t.cond ∨ (u.cond = c ∧ t.cond = s.cond))

theorem State.walkString_cond (f : Word → List Byte) (n : Nat) (a : Word) (s : State) (c : Cond) :
    State.walkString f n a { s with cond := c } = { State.walkString f n a s with cond := c } := by
  induction n generalizing a s with
  | zero => rfl
  | succ n ih =>
    simp only [State.walkString]
    by_cases h : s.memRead a = 0
    · rw [if_pos h, if_pos (show ({ s with cond := c } : State).memRead a = 0 from h)]; rfl
    · rw [if_neg h, if_neg (show ¬ ({ s with cond := c } : State).memRead a = 0 from h)]
      exact ih (a + 1) ((s.afterRead a).outputBytes (f (s.memRead a)))

/-- A string service leaves Condition alone and does not read it (R205, R207). -/
theorem SameButCond.walk (f : Word → List Byte) (n : Nat) (a : Word) (s : State) (c : Cond) :
    SameButCond c s (State.walkString f n a s.linkTrap)
      (State.walkString f n a (State.linkTrap { s with cond := c })) := by
  have hw := State.walkString_cond f n a s.linkTrap c
  have hc : (State.walkString f n a s.linkTrap).cond = s.cond := by
    rw [State.walkString_frame]; rfl
  rw [show State.linkTrap { s with cond := c } = { s.linkTrap with cond := c } from rfl, hw]
  exact ⟨rfl, .inr ⟨rfl, hc⟩⟩

/-- What GETC and IN do to Condition depends on the parameter and the word (R210). -/
theorem SameButCond.input (c : Cond) (w : Word) {s x : State} (hx : x.cond = s.cond) :
    SameButCond c s (x.setCCInput w) (State.setCCInput { x with cond := c } w) := by
  refine ⟨rfl, ?_⟩
  simp only [State.setCCInput_cond]
  split
  · exact .inl rfl
  · exact .inr ⟨rfl, hx⟩

/-- No service reads Condition (R29). -/
theorem runService_sameButCond (v : Service) (s : State) (c : Cond) :
    SameButCond c s (s.runService v) (State.runService { s with cond := c } v) := by
  have hi : ({ s with cond := c } : State).inputWord = s.inputWord := rfl
  cases v with
  | getc =>
    simp only [State.runService]
    cases hw : s.inputWord with
    | none =>
      rw [State.serviceGetc_none _ hw, State.serviceGetc_none _ (hi.trans hw)]
      exact ⟨rfl, .inr ⟨rfl, rfl⟩⟩
    | some w =>
      rw [State.serviceGetc_some _ hw, State.serviceGetc_some _ (hi.trans hw)]
      exact SameButCond.input c w rfl
  | inChar =>
    simp only [State.runService]
    cases hw : s.inputWord with
    | none =>
      rw [State.serviceIn_none _ hw, State.serviceIn_none _ (hi.trans hw)]
      exact ⟨rfl, .inr ⟨rfl, rfl⟩⟩
    | some w =>
      rw [State.serviceIn_some _ hw, State.serviceIn_some _ (hi.trans hw)]
      exact SameButCond.input c w rfl
  | out | halt => exact ⟨rfl, .inr ⟨rfl, rfl⟩⟩
  | puts => exact SameButCond.walk putsBytes walkFuel (s.reg .R0) s c
  | putsp => exact SameButCond.walk putspBytes walkFuel (s.reg .R0) s c

/-- Settles O19: writers of a result set Condition from it, the services are
`runService_sameButCond`, and every other instruction but BR leaves Condition alone. -/
theorem onlyBranchReadsCondition : Obligations.OnlyBranchReadsCondition := by
  unfold Obligations.OnlyBranchReadsCondition
  intro i s t c hbr h
  have service {v : Service} (hv : RunsService i v) :
      ∃ u, exec i { s with cond := c } = .next u ∧ SameButCond c s t u := by
    rw [exec_of_runsService hv] at h ⊢
    cases h
    exact ⟨_, rfl, runService_sameButCond v s c⟩
  cases i with
  | addR | addI | andR | andI | not | ld | ldi | ldr | lea =>
    cases h; exact ⟨_, rfl, rfl, .inl rfl⟩
  | st | sti | str | jmp | ret | jsr | jsrr | rti | res =>
    cases h; exact ⟨_, rfl, rfl, .inr ⟨rfl, rfl⟩⟩
  | br n z p off9 => exact absurd rfl (hbr n z p off9)
  | trap vec =>
    cases hv : serviceOf vec with
    | some v => exact service (v := v) (.inl (by rw [serviceOf_some hv]))
    | none =>
      rw [exec_trap_of_serviceOf_none hv] at h ⊢
      cases h
      exact ⟨_, rfl, rfl, .inr ⟨rfl, rfl⟩⟩
  | getc => exact service (v := .getc) (.inr rfl)
  | out => exact service (v := .out) (.inr rfl)
  | puts => exact service (v := .puts) (.inr rfl)
  | inChar => exact service (v := .inChar) (.inr rfl)
  | putsp => exact service (v := .putsp) (.inr rfl)
  | halt => exact service (v := .halt) (.inr rfl)

/-! ## The pc -/

/-- An instruction that does not transfer control leaves the pc, or takes its fetch back (R24,
R211). -/
theorem Effect.pc_cases {i : Instr} {s t : State} (h : Effect s i t)
    (hi : transfersControl i = false) :
    t.pc = s.pc ∨ (i.asksInput = true ∧ s.noCharacter ∧ t.pc = s.pc - 1) := by
  cases h with
  | result | store | took | wrote | haltTrap | badVector | reserved => exact .inl rfl
  | jump p ht | link p ht => cases ht.symm.trans hi
  | held bs ha hn => exact .inr ⟨ha, s.inputWord_eq_none_iff.mp hn, rfl⟩

/-- Settles O21: the fetch has incremented the pc, and a held step takes it back. -/
theorem pcAdvancesWithoutTransfer : Obligations.PcAdvancesWithoutTransfer := by
  unfold Obligations.PcAdvancesWithoutTransfer
  intro s t h hi
  obtain ⟨-, he⟩ := step_next h
  obtain hp | ⟨ha, hn, hp⟩ := (exec_effect he).pc_cases hi
  · exact .inl hp
  · exact .inr ⟨ha, hn, by simpa using hp⟩

/-! ## The console ports -/

/-- No instruction changes the parameters or the end of the input (R10, R36). -/
theorem Effect.params_inputEnded {i : Instr} {s t : State} (h : Effect s i t) :
    t.params = s.params ∧ t.inputEnded = s.inputEnded := by
  cases h <;> exact ⟨rfl, rfl⟩

/-- A character is taken by GETC or IN alone, the oldest first (R36). -/
theorem Effect.input_cases {i : Instr} {s t : State} (h : Effect s i t) :
    t.input = s.input ∨ (i.asksInput = true ∧ ∃ c, s.input = c :: t.input) := by
  cases h with
  | result | store | jump | link | held | wrote | haltTrap | badVector | reserved => exact .inl rfl
  | took c bs hi => exact s.input_tail.imp_right fun hc => ⟨hi, hc⟩

/-- Settles O26, over the effects; the fetch touches no console field. -/
theorem inputTakenOnlyByGetcAndIn : Obligations.InputTakenOnlyByGetcAndIn := by
  unfold Obligations.InputTakenOnlyByGetcAndIn
  intro s t h
  have he := exec_effect (step_next h).2
  obtain ⟨hp, hend⟩ := he.params_inputEnded
  exact ⟨hp, hend, he.input_cases⟩

/-- Output is appended to, by an instruction that writes output alone (R37). -/
theorem Effect.output_append {i : Instr} {s t : State} (h : Effect s i t) :
    ∃ bs, t.output = s.output ++ bs ∧ (writesOutput i = false → bs = []) := by
  cases h with
  | result | store | jump | link | haltTrap | badVector | reserved =>
    exact ⟨[], (List.append_nil _).symm, fun _ => rfl⟩
  | held bs _ _ hb | took _ bs _ _ hb => exact ⟨bs, rfl, hb⟩
  | wrote bs _ hi => exact ⟨bs, rfl, fun hn => nomatch hi.symm.trans hn⟩

/-- Settles O27, over the effects; the fetch touches no console field. -/
theorem outputAppendedOnlyByServices : Obligations.OutputAppendedOnlyByServices := by
  unfold Obligations.OutputAppendedOnlyByServices
  intro s t h
  obtain ⟨bs, ht, hb⟩ := (exec_effect (step_next h).2).output_append
  exact ⟨⟨bs, ht⟩, fun hi => by simpa [hb hi] using ht⟩

/-! ## GETC and IN given a word -/

/-- The end of a GETC or IN: R0 and, under the parameters, R7 and Condition (R201, R203, R206,
R210). -/
theorem serviceFrame_input (s : State) (bs : List Byte) (w : Word) :
    let t := ((s.outputBytes bs).afterInput.linkTrap.setReg .R0 w).setCCInput w
    t.reg .R0 = w ∧ ServiceFrame [.R0] s t ∧ InputCondition s t := by
  refine ⟨rfl, ⟨rfl, fun r hr => ?_, rfl, fun _ => rfl, rfl⟩, inputCondition_took s bs w⟩
  obtain ⟨h7, h0⟩ : r ≠ .R7 ∧ r ≠ .R0 := by simpa using hr
  simp [h7, h0]

/-- `w[7:0]` is the word modulo 2^8. -/
theorem lowByte_eq_ofNat (w : Word) : lowByte w = BitVec.ofNat 8 w.toNat := by
  simp [lowByte, BitVec.extractLsb']

/-- Settles O53: the word of INPUT_END is the one the port returns. -/
theorem endOfInputGivesParameter : Obligations.EndOfInputGivesParameter := by
  unfold Obligations.EndOfInputGivesParameter
  intro s w hi he hp
  have hw := s.inputWord_value hi he hp
  have htail : s.input.tail = [] := by rw [hi]; rfl
  constructor
  · obtain ⟨h0, hf, hc⟩ := serviceFrame_input s [] w
    rw [s.outputBytes_nil] at h0 hf hc
    exact ⟨_, congrArg Host.Outcome.next (s.serviceGetc_some hw), h0, hf, hc, htail,
      rfl, rfl, rfl, rfl⟩
  · obtain ⟨h0, hf, hc⟩ := serviceFrame_input s
      ((if s.inputRequested then [] else s.params.inPrompt) ++ [lowByte w]) w
    rw [← s.outputBytes_outputBytes] at h0 hf hc
    refine ⟨_, congrArg Host.Outcome.next (s.serviceIn_some hw), h0, hf, hc, htail,
      ⟨rfl, rfl, rfl⟩, ?_⟩
    simp [lowByte_eq_ofNat]

/-! ## The step and reset -/

/-- Settles O9: the fetch is a read at the pc and the pc's increment. -/
theorem stepRunsDecodedInstruction : Obligations.StepRunsDecodedInstruction := by
  unfold Obligations.StepRunsDecodedInstruction
  intro s hr
  refine ⟨step_running hr, ⟨_, rfl⟩, fun hs hd => ?_⟩
  have hf : s.fetchable s.pc = true := by simp [State.fetchable, hs, hd]
  rw [step_running hr, State.fetchWord, s.memRead_of_fetchable hf, s.fetched_eq,
    s.afterRead_of_fetchable hf]
  rfl

/-- Settles O10: the step of a HALTED block is a fault. -/
theorem haltedBlockHasNoStep : Obligations.HaltedBlockHasNoStep := by
  unfold Obligations.HaltedBlockHasNoStep
  intro s hs t
  rw [step_halted hs]
  nofun

/-- Settles O15: the reset state is RUNNING with no cause, empty memory and no request. -/
theorem resetHasInvariants : Obligations.ResetHasInvariants := by
  unfold Obligations.ResetHasInvariants
  exact ⟨⟨rfl, iff_of_true rfl rfl⟩, nofun⟩

/-! ## The load -/

/-- The bytes of an image's words, big-endian (R273). -/
def imageBytes (words : List Word) : List Byte := words.flatMap fun w => [highByte w, lowByte w]

theorem wordOfBytes_highByte_lowByte (w : Word) : wordOfBytes (highByte w) (lowByte w) = w :=
  (BitVec.extractLsb'_append_extractLsb'_eq_extractLsb' (x := w) (start₁ := 0) (len₁ := 8) rfl).trans
    BitVec.extractLsb'_eq_self

/-- Loading an object file sets the pc to its origin and writes its words there (R272, R273). -/
theorem State.load_objectFile (s : State) (origin : Word) (words : List Word) :
    s.load (objectFile origin words) =
      some { s with mem := loadWords origin.toNat (imageBytes words) s.mem, pc := origin } := by
  show some _ = some _
  rw [wordOfBytes_highByte_lowByte]
  rfl

/-- The k-th word of an image stands at the first address plus k, as far as the address space goes
(R272, R275). -/
theorem read_loadWords {m : Memory} (hm : m.wf = true) (a : Nat) (words : List Word) {b : Nat}
    (hb : b < 65536) :
    (loadWords a (imageBytes words) m).read b =
      if b < a then m.read b else (words[b - a]?).getD (m.read b) := by
  induction words generalizing a m with
  | nil => simp [imageBytes, loadWords]
  | cons w ws ih =>
    show (if a ≤ 0xFFFF then loadWords (a + 1) (imageBytes ws)
      (m.write a (wordOfBytes (highByte w) (lowByte w))) else m).read b = _
    rw [wordOfBytes_highByte_lowByte]
    split
    · next ha =>
      rw [ih (Memory.wf_write hm w (by omega)), Memory.read_write hm]
      rcases Nat.lt_trichotomy b a with hlt | rfl | hgt
      · simp [hlt, Nat.lt_succ_of_lt hlt, hlt.ne]
      · simp
      · have hk : b - a = (b - (a + 1)) + 1 := by omega
        rw [if_neg (by omega), if_neg (by omega), if_neg (by omega), hk, List.getElem?_cons_succ]
    · rw [if_pos (by omega)]

/-- Settles O16: the load writes into the reset state's empty memory. -/
theorem resetAndLoadValues : Obligations.ResetAndLoadValues := by
  unfold Obligations.ResetAndLoadValues
  have hreg : ∀ r, State.reset.reg r = 0x0000 := fun r => by cases r <;> rfl
  refine ⟨⟨fun _ => rfl, hreg, rfl, rfl, rfl, rfl⟩, fun origin words => ?_⟩
  exact ⟨_, State.reset.load_objectFile origin words, fun a => read_loadWords rfl _ words a.isLt,
    hreg, rfl, rfl, rfl, rfl⟩

end Sys2Proof.Machine

/-! # The statements about memory -/

namespace Sys2Proof.Machine

open Sys2Proof.Claims

/-! ## Memory in canonical form -/

theorem Memory.wfFrom_cell_iff {lo a : Nat} {v : Word} {rest : Memory} :
    Memory.wfFrom lo ((a, v) :: rest) = true ↔
      lo ≤ a ∧ a < 65536 ∧ v ≠ Memory.unlisted ∧ Memory.wfFrom (a + 1) rest = true := by
  simp only [Memory.wfFrom, Bool.and_eq_true, decide_eq_true_eq, and_assoc]

theorem Memory.read_head (a : Nat) (v : Word) (rest : Memory) :
    Memory.read ((a, v) :: rest) a = v :=
  if_pos rfl

theorem Memory.read_tail {a b : Nat} (h : b ≠ a) (v : Word) (rest : Memory) :
    Memory.read ((a, v) :: rest) b = Memory.read rest b :=
  if_neg h

/-- A memory whose cells all lie above the first cell of another reads differently there. -/
theorem Memory.read_head_ne {lo hi a : Nat} {v : Word} {rest m : Memory}
    (h : Memory.wfFrom lo ((a, v) :: rest) = true) (hm : Memory.wfFrom hi m = true) (ha : a < hi) :
    Memory.read ((a, v) :: rest) a ≠ m.read a := by
  obtain ⟨-, -, hv, -⟩ := Memory.wfFrom_cell_iff.mp h
  rwa [Memory.read_head, Memory.read_of_lt hm ha]

/-- Canonical memories that read alike are equal: the first cells are the same, as the lower of two
would read differently, and so the rests read alike. -/
theorem Memory.eq_of_read_eq {lo : Nat} {m n : Memory} (hm : Memory.wfFrom lo m = true)
    (hn : Memory.wfFrom lo n = true) (h : ∀ a, a < 65536 → m.read a = n.read a) : m = n := by
  induction m generalizing lo n with
  | nil =>
    cases n with
    | nil => rfl
    | cons d ns =>
      obtain ⟨b, w⟩ := d
      obtain ⟨-, hb, -, -⟩ := Memory.wfFrom_cell_iff.mp hn
      exact absurd (h b hb).symm (Memory.read_head_ne hn (m := []) (hi := b + 1) rfl b.lt_succ_self)
  | cons c ms ih =>
    obtain ⟨a, v⟩ := c
    obtain ⟨-, ha, hv, hms⟩ := Memory.wfFrom_cell_iff.mp hm
    cases n with
    | nil =>
      exact absurd (h a ha) (Memory.read_head_ne hm (m := []) (hi := a + 1) rfl a.lt_succ_self)
    | cons d ns =>
      obtain ⟨b, w⟩ := d
      obtain ⟨-, hb, hw, hns⟩ := Memory.wfFrom_cell_iff.mp hn
      obtain hlt | rfl | hgt := Nat.lt_trichotomy a b
      · have hn' := Memory.wfFrom_cell_iff.mpr ⟨le_refl b, hb, hw, hns⟩
        exact absurd (h a ha) (Memory.read_head_ne hm hn' hlt)
      · have hvw : v = w := by simpa only [Memory.read_head] using h a ha
        have hrest : ∀ k, k < 65536 → Memory.read ms k = Memory.read ns k := by
          intro k hk
          by_cases hka : k < a + 1
          · rw [Memory.read_of_lt hms hka, Memory.read_of_lt hns hka]
          · have hne : k ≠ a := by omega
            simpa only [Memory.read_tail hne] using h k hk
        rw [hvw, ih hms hns hrest]
      · have hm' := Memory.wfFrom_cell_iff.mpr ⟨le_refl a, ha, hv, hms⟩
        exact absurd (h b hb).symm (Memory.read_head_ne hn hm' hgt)

/-- Settles O25, by induction on the cells; every address below 2^16 is a word. -/
theorem memoryDeterminedByReads : Obligations.MemoryDeterminedByReads := by
  unfold Obligations.MemoryDeterminedByReads
  intro m n hm hn h
  refine Memory.eq_of_read_eq hm hn fun a ha => ?_
  simpa only [BitVec.toNat_ofNat, Nat.mod_eq_of_lt ha] using h (BitVec.ofNat 16 a)

/-! ## Reads -/

/-- A draw is taken at KBDR_ADDR alone (R53). -/
theorem State.drawsAt_of_ne_kbdrAddr (s : State) {a : Word} (h : a ≠ s.params.kbdrAddr) :
    s.drawsAt a = 0 := by
  simp [State.drawsAt, h]

/-- A read at KBDR_ADDR takes one draw, unless KBSR_ADDR is the same address (R53). -/
theorem State.drawsAt_kbdrAddr {s : State} (h : s.params.kbdrAddr ≠ s.params.kbsrAddr) :
    s.drawsAt s.params.kbdrAddr = 1 := by
  simp [State.drawsAt, h]

/-- A read at KBDR_ADDR returns the draw the count is at, unless KBSR_ADDR is the same address
(R53). -/
theorem State.memRead_kbdrAddr {s : State} (h : s.params.kbdrAddr ≠ s.params.kbsrAddr) :
    s.memRead s.params.kbdrAddr = Config.kbdrDraw s.draws := by
  simp [State.memRead, h]

/-- Settles O24, by where a read takes a draw. -/
theorem readTakesFreshDraw : Obligations.ReadTakesFreshDraw := by
  unfold Obligations.ReadTakesFreshDraw
  intro s a
  refine ⟨rfl, fun hd => ?_, ?_⟩
  · rw [State.afterRead, s.drawsAt_of_ne_kbdrAddr hd, Nat.add_zero]
  · rintro rfl hs
    have hr := State.memRead_kbdrAddr (s := s.afterRead s.params.kbdrAddr) hs
    rwa [State.afterRead_draws, State.drawsAt_kbdrAddr hs] at hr

/-- Settles O23: a write changes neither keyboard address nor the count of draws, and the stored
words are those of `State.memWord_memWrite`. -/
theorem readAfterWrite : Obligations.ReadAfterWrite := by
  unfold Obligations.ReadAfterWrite
  intro s a v b hm
  simp only [State.memRead, State.memWrite_params, State.memWrite_draws,
    State.memWord_memWrite hm]

/-! ## Stores -/

/-- ST, STI and STR write the stored word, and at most count the draw of STI's pointer (R180 to
R182). -/
theorem exec_of_stored {i : Instr} {s : State} {ea v : Word} (h : stored s i = some (ea, v)) :
    ∃ k, exec i s = .next ((s.memWrite ea v).setDraws k) := by
  cases i with
  | st | sti | str => cases h; exact ⟨_, rfl⟩
  | addR | addI | andR | andI | not | br | jmp | ret | jsr | jsrr | ld | ldi | ldr | lea | trap
  | getc | out | puts | inChar | putsp | halt | rti | res => cases h

/-- The only effect that changes memory is that of a store (R52). -/
theorem Effect.sameMemory {i : Instr} {s t : State} (h : Effect s i t) (hi : stored s i = none) :
    SameMemory s t := by
  cases h with
  | store k hs => cases hs.symm.trans hi
  | result | jump | link | held | took | wrote | haltTrap | badVector | reserved =>
    exact fun _ => rfl

/-- Settles O20, by the effects that are no store and by what a store leaves. -/
theorem memoryWrittenOnlyByStores : Obligations.MemoryWrittenOnlyByStores := by
  unfold Obligations.MemoryWrittenOnlyByStores
  intro i s t hm h
  refine ⟨(exec_effect h).sameMemory, fun ea v hst => ?_⟩
  obtain ⟨k, hk⟩ := exec_of_stored hst
  cases hk.symm.trans h
  have hread (a : Word) :
      ((s.memWrite ea v).setDraws k).memWord a = if a = ea then v else s.memWord a :=
    State.memWord_memWrite hm ea v a
  exact ⟨(hread ea).trans (if_pos rfl), fun a ha => (hread a).trans (if_neg ha)⟩

/-- Settles O22: a store leaves the pc, and where no keyboard register stands the fetch returns the
stored word. -/
theorem storeSeenByNextFetch : Obligations.StoreSeenByNextFetch := by
  unfold Obligations.StoreSeenByNextFetch
  intro i s t v hm h hst hs hd
  obtain ⟨k, hk⟩ := exec_of_stored hst
  cases hk.symm.trans h
  have hf : ((s.memWrite s.pc v).setDraws k).fetchable s.pc = true := by
    simp [State.fetchable, hs, hd]
  calc ((s.memWrite s.pc v).setDraws k).fetchWord
    _ = ((s.memWrite s.pc v).setDraws k).memWord s.pc := State.memRead_of_fetchable _ hf
    _ = v := (State.memWord_memWrite hm s.pc v s.pc).trans (if_pos rfl)

/-! ## Effective addresses -/

/-- Settles O28, by the sum of a base and a sign-extended offset (R94, R95). -/
theorem effectiveAddressesWrap : Obligations.EffectiveAddressesWrap := by
  unfold Obligations.EffectiveAddressesWrap
  exact fun s => ⟨toNat_pcRel9 s, toNat_pcRel11 s, toNat_baseOff6 s⟩

end Sys2Proof.Machine

/-! # The statements about the decoder and the encoder

What a word decodes to is said once, as the relation `Decodes`; the statements are read off its
cases. -/

namespace Sys2Proof

open Sys2Proof.Machine Sys2Proof.Claims

/-! ## The decoder as a relation -/

/-- What a word decodes to: a case for each form of word, with the fields it reads (R82 to R93). -/
inductive Decodes (w : Word) : Instr → Prop
  | br (ho : opcodeOf w = 0x0) :
      Decodes w (.br (w.getLsbD 11) (w.getLsbD 10) (w.getLsbD 9) (offset9Of w))
  | addR (ho : opcodeOf w = 0x1) (h5 : w.getLsbD 5 = false) :
      Decodes w (.addR (regAt11 w) (regAt8 w) (regAt2 w))
  | addI (ho : opcodeOf w = 0x1) (h5 : w.getLsbD 5 = true) :
      Decodes w (.addI (regAt11 w) (regAt8 w) (imm5Of w))
  | ld (ho : opcodeOf w = 0x2) : Decodes w (.ld (regAt11 w) (offset9Of w))
  | st (ho : opcodeOf w = 0x3) : Decodes w (.st (regAt11 w) (offset9Of w))
  | jsr (ho : opcodeOf w = 0x4) (h11 : w.getLsbD 11 = true) : Decodes w (.jsr (offset11Of w))
  | jsrr (ho : opcodeOf w = 0x4) (h11 : w.getLsbD 11 = false) : Decodes w (.jsrr (regAt8 w))
  | andR (ho : opcodeOf w = 0x5) (h5 : w.getLsbD 5 = false) :
      Decodes w (.andR (regAt11 w) (regAt8 w) (regAt2 w))
  | andI (ho : opcodeOf w = 0x5) (h5 : w.getLsbD 5 = true) :
      Decodes w (.andI (regAt11 w) (regAt8 w) (imm5Of w))
  | ldr (ho : opcodeOf w = 0x6) : Decodes w (.ldr (regAt11 w) (regAt8 w) (offset6Of w))
  | str (ho : opcodeOf w = 0x7) : Decodes w (.str (regAt11 w) (regAt8 w) (offset6Of w))
  | rti (ho : opcodeOf w = 0x8) : Decodes w .rti
  | not (ho : opcodeOf w = 0x9) : Decodes w (.not (regAt11 w) (regAt8 w))
  | ldi (ho : opcodeOf w = 0xA) : Decodes w (.ldi (regAt11 w) (offset9Of w))
  | sti (ho : opcodeOf w = 0xB) : Decodes w (.sti (regAt11 w) (offset9Of w))
  | jump (ho : opcodeOf w = 0xC) : Decodes w (jumpInstr (regAt8 w))
  | res (ho : opcodeOf w = 0xD) : Decodes w .res
  | lea (ho : opcodeOf w = 0xE) : Decodes w (.lea (regAt11 w) (offset9Of w))
  | trap (ho : opcodeOf w = 0xF) : Decodes w (trapInstr (trapVectOf w))

/-- The decoder is total, and each of its branches is a case of the relation (R100). -/
theorem decodes_decode (w : Word) : Decodes w (decode w) := by
  have op {n : BitVec 4} (h : (opcodeOf w).toNat = n.toNat) : opcodeOf w = n :=
    BitVec.eq_of_toNat_eq h
  unfold decode
  split
  · next h => exact .br (op h)
  · next h =>
    split
    · next h5 => exact .addI (op h) h5
    · next h5 => exact .addR (op h) (eq_false_of_ne_true h5)
  · next h => exact .ld (op h)
  · next h => exact .st (op h)
  · next h =>
    split
    · next h11 => exact .jsr (op h) h11
    · next h11 => exact .jsrr (op h) (eq_false_of_ne_true h11)
  · next h =>
    split
    · next h5 => exact .andI (op h) h5
    · next h5 => exact .andR (op h) (eq_false_of_ne_true h5)
  · next h => exact .ldr (op h)
  · next h => exact .str (op h)
  · next h => exact .rti (op h)
  · next h => exact .not (op h)
  · next h => exact .ldi (op h)
  · next h => exact .sti (op h)
  · next h => exact .jump (op h)
  · next h => exact .res (op h)
  · next h => exact .lea (op h)
  · have hlt := (opcodeOf w).isLt
    simp only [imp_false] at *
    exact .trap (op (by change (opcodeOf w).toNat = 15; omega))

/-- The relation is the decoder: no word stands in two cases. -/
theorem Decodes.decode_eq {w : Word} {i : Instr} (h : Decodes w i) : decode w = i := by
  cases h with
  | br ho | ld ho | st ho | ldr ho | str ho | rti ho | not ho | ldi ho | sti ho | jump ho | res ho
  | lea ho | trap ho => simp [decode, ho]
  | addR ho hb | addI ho hb | andR ho hb | andI ho hb | jsr ho hb | jsrr ho hb =>
    simp only [decode, ho, hb]; rfl

/-! ## The rows named apart: RET, and the services (log entry 17) -/

@[simp] theorem jumpInstr_opcode (base : Reg) : (jumpInstr base).opcode = 0xC := by
  cases base <;> rfl

@[simp] theorem jumpInstr_wellFormed (base : Reg) : (jumpInstr base).wellFormed = true := by
  cases base <;> rfl

theorem jumpInstr_of_ne {base : Reg} (h : base ≠ .R7) : jumpInstr base = .jmp base :=
  if_neg h

@[simp] theorem trapInstr_opcode (vec : Byte) : (trapInstr vec).opcode = 0xF := by
  cases h : serviceOf vec with
  | none => rw [trapInstr_of_none h]; rfl
  | some v => exact opcode_of_runsService (.inr (by rw [serviceOf_some h]))

@[simp] theorem trapInstr_wellFormed (vec : Byte) : (trapInstr vec).wellFormed = true := by
  cases h : serviceOf vec with
  | none => rw [trapInstr_of_none h]; exact decide_eq_true h
  | some v => rw [serviceOf_some h, trapInstr_serviceCode]; cases v <;> rfl

/-- The service table in numbers (R202). -/
theorem trapInstr_eq_ite (vec : Byte) : trapInstr vec =
    if vec.toNat = 0x20 then .getc else if vec.toNat = 0x21 then .out
    else if vec.toNat = 0x22 then .puts else if vec.toNat = 0x23 then .inChar
    else if vec.toNat = 0x24 then .putsp else if vec.toNat = 0x25 then .halt else .trap vec := by
  simp only [trapInstr, serviceOf, serviceCode, ← BitVec.toNat_inj]
  repeat' split
  all_goals simp_all

theorem Machine.serviceOf_eq_none_iff (vec : Byte) :
    serviceOf vec = none ↔ vec.toNat < 0x20 ∨ 0x25 < vec.toNat := by
  constructor
  · intro h
    simp only [serviceOf, serviceCode, ← BitVec.toNat_inj] at h
    split_ifs at h
    simp only [BitVec.reduceToNat] at *
    omega
  · intro h
    cases hv : serviceOf vec with
    | none => rfl
    | some v => rw [serviceOf_some hv] at h; revert h; cases v <;> decide

theorem Machine.serviceOf_eq_halt_iff (vec : Byte) :
    serviceOf vec = some .halt ↔ vec.toNat = 0x25 := by
  constructor
  · intro h
    rw [serviceOf_some h]
    rfl
  · intro h
    obtain rfl : vec = serviceCode .halt := BitVec.eq_of_toNat_eq h
    exact serviceOf_serviceCode .halt

/-! ## The router -/

/-- The router goes by bits 15-12 (R82). -/
theorem Decodes.opcode_eq {w : Word} {i : Instr} (h : Decodes w i) : i.opcode = opcodeOf w := by
  cases h with
  | jump ho => rw [ho, jumpInstr_opcode]
  | trap ho => rw [ho, trapInstr_opcode]
  | br ho | addR ho | addI ho | ld ho | st ho | jsr ho | jsrr ho | andR ho | andI ho | ldr ho
  | str ho | rti ho | not ho | ldi ho | sti ho | res ho | lea ho => rw [ho]; rfl

theorem toNat_opcodeOf (w : Word) : (opcodeOf w).toNat = w.toNat / 4096 := by
  have := w.isLt
  simp only [opcodeOf, BitVec.extractLsb'_toNat, Nat.shiftRight_eq_div_pow]
  omega

/-- Settles O3: the opcode of the decoded instruction is the field in bits 15-12. -/
theorem decodeRoutesByOpcode : Obligations.DecodeRoutesByOpcode := by
  unfold Obligations.DecodeRoutesByOpcode
  intro w
  rw [(decodes_decode w).opcode_eq, toNat_opcodeOf]

/-! ## The fields of a word as numbers -/

/-- The opcode of a word whose bits 15-12 are given as a number (R81). -/
theorem opcodeOf_of_div {w : Word} {op : BitVec 4} (h : w.toNat / 4096 = op.toNat) :
    opcodeOf w = op :=
  BitVec.eq_of_toNat_eq ((toNat_opcodeOf w).trans h)

theorem getLsbD_eq_true_iff (w : Word) (k : Nat) :
    w.getLsbD k = true ↔ w.toNat / 2 ^ k % 2 = 1 := by
  rw [BitVec.getLsbD, Nat.testBit_eq_decide_div_mod_eq, decide_eq_true_eq]

theorem getLsbD_eq_false_iff (w : Word) (k : Nat) :
    w.getLsbD k = false ↔ w.toNat / 2 ^ k % 2 = 0 := by
  rw [← Bool.not_eq_true, getLsbD_eq_true_iff]
  exact Nat.mod_two_ne_one

/-- R96: a register field is the number of its register. -/
theorem isRegField_extract (w : Word) (lo : Nat) :
    IsRegField (regOfBits (w.extractLsb' lo 3)) w lo := by
  simp [IsRegField, Nat.shiftRight_eq_div_pow]

/-- R94: an immediate or offset field as a signed number. -/
theorem toInt_extract (w : Word) {n : Nat} (hn : 0 < n) :
    (w.extractLsb' 0 n).toInt = signedField n w := by
  obtain ⟨n, rfl⟩ := Nat.exists_eq_succ_of_ne_zero hn.ne'
  simp only [BitVec.toInt_eq_toNat_cond, signedField, BitVec.extractLsb'_toNat, Nat.shiftRight_zero,
    Nat.succ_eq_add_one, Nat.add_sub_cancel, Nat.pow_succ']
  push_cast
  split <;> split <;> omega

theorem toNat_trapVectOf (w : Word) : (trapVectOf w).toNat = w.toNat % 256 := by
  simp [trapVectOf]

theorem trapVectOf_eq_ofNat (w : Word) : trapVectOf w = BitVec.ofNat 8 w.toNat :=
  lowByte_eq_ofNat w

/-- Settles O4, by the forms of ADD, AND and NOT, whose fields are read as numbers. -/
theorem operateFormatFields : Obligations.OperateFormatFields := by
  unfold Obligations.OperateFormatFields
  intro w
  have hdr : IsRegField (regAt11 w) w 9 := isRegField_extract w 9
  have hsr1 : IsRegField (regAt8 w) w 6 := isRegField_extract w 6
  have hsr2 : IsRegField (regAt2 w) w 0 := isRegField_extract w 0
  have himm : (imm5Of w).toInt = signedField 5 w := toInt_extract w (by decide)
  have hclear := getLsbD_eq_false_iff w 5
  have hset := getLsbD_eq_true_iff w 5
  refine ⟨fun ho h5 => ?_, fun ho h5 => ?_, fun ho h5 => ?_, fun ho h5 => ?_, fun ho => ?_⟩
  · exact ⟨_, _, _, (Decodes.addR (opcodeOf_of_div ho) (hclear.mpr h5)).decode_eq, hdr, hsr1,
      hsr2⟩
  · exact ⟨_, _, _, (Decodes.andR (opcodeOf_of_div ho) (hclear.mpr h5)).decode_eq, hdr, hsr1,
      hsr2⟩
  · exact ⟨_, _, _, (Decodes.addI (opcodeOf_of_div ho) (hset.mpr h5)).decode_eq, hdr, hsr1,
      himm⟩
  · exact ⟨_, _, _, (Decodes.andI (opcodeOf_of_div ho) (hset.mpr h5)).decode_eq, hdr, hsr1,
      himm⟩
  · exact ⟨_, _, (Decodes.not (opcodeOf_of_div ho)).decode_eq, hdr, hsr1⟩

/-- Settles O5, by the forms of BR, JMP and RET, JSR and JSRR. -/
theorem controlFormatFields : Obligations.ControlFormatFields := by
  unfold Obligations.ControlFormatFields
  intro w
  have hbase : IsRegField (regAt8 w) w 6 := isRegField_extract w 6
  refine ⟨fun ho => ?_, fun ho => ?_, fun ho h11 => ?_, fun ho h11 => ?_⟩
  · exact ⟨_, _, _, _, (Decodes.br (opcodeOf_of_div ho)).decode_eq, getLsbD_eq_true_iff w 11,
      getLsbD_eq_true_iff w 10, getLsbD_eq_true_iff w 9, toInt_extract w (by decide)⟩
  · exact ⟨_, hbase, (Decodes.jump (opcodeOf_of_div ho)).decode_eq⟩
  · exact ⟨_, (Decodes.jsr (opcodeOf_of_div ho) ((getLsbD_eq_true_iff w 11).mpr h11)).decode_eq,
      toInt_extract w (by decide)⟩
  · exact ⟨_, (Decodes.jsrr (opcodeOf_of_div ho) ((getLsbD_eq_false_iff w 11).mpr h11)).decode_eq,
      hbase⟩

/-- Settles O6, by the forms of loads, stores, TRAP and the reserved opcodes. -/
theorem memoryAndTrapFormatFields : Obligations.MemoryAndTrapFormatFields := by
  unfold Obligations.MemoryAndTrapFormatFields
  intro w
  have hr : IsRegField (regAt11 w) w 9 := isRegField_extract w 9
  have hbase : IsRegField (regAt8 w) w 6 := isRegField_extract w 6
  have hoff6 : (offset6Of w).toInt = signedField 6 w := toInt_extract w (by decide)
  have hoff9 : (offset9Of w).toInt = signedField 9 w := toInt_extract w (by decide)
  refine ⟨fun ho => ?_, fun ho => ?_, fun ho => ?_, fun ho => ?_, fun ho => ?_, fun ho => ?_,
    fun ho => ?_, fun ho => ?_, fun ho => ?_, fun ho => ?_⟩
  · exact ⟨_, _, (Decodes.ld (opcodeOf_of_div ho)).decode_eq, hr, hoff9⟩
  · exact ⟨_, _, (Decodes.ldi (opcodeOf_of_div ho)).decode_eq, hr, hoff9⟩
  · exact ⟨_, _, (Decodes.lea (opcodeOf_of_div ho)).decode_eq, hr, hoff9⟩
  · exact ⟨_, _, (Decodes.st (opcodeOf_of_div ho)).decode_eq, hr, hoff9⟩
  · exact ⟨_, _, (Decodes.sti (opcodeOf_of_div ho)).decode_eq, hr, hoff9⟩
  · exact ⟨_, _, _, (Decodes.ldr (opcodeOf_of_div ho)).decode_eq, hr, hbase, hoff6⟩
  · exact ⟨_, _, _, (Decodes.str (opcodeOf_of_div ho)).decode_eq, hr, hbase, hoff6⟩
  · rw [(Decodes.trap (opcodeOf_of_div ho)).decode_eq, trapInstr_eq_ite, toNat_trapVectOf,
      trapVectOf_eq_ofNat]
  · exact (Decodes.rti (opcodeOf_of_div ho)).decode_eq
  · exact (Decodes.res (opcodeOf_of_div ho)).decode_eq

/-! ## Bits the decoder does not read -/

/-- A mask of changed bits that misses a field leaves the field. -/
theorem extract_xor {m mask : Word} (hm : m &&& mask = 0) {lo n : Nat}
    (h : mask.extractLsb' lo n = BitVec.allOnes n) (w : Word) :
    (w ^^^ m).extractLsb' lo n = w.extractLsb' lo n := by
  have hz : m.extractLsb' lo n = 0#n := by
    calc m.extractLsb' lo n
      _ = (m &&& mask).extractLsb' lo n := by rw [BitVec.extractLsb'_and, h, BitVec.and_allOnes]
      _ = 0#n := by rw [hm]; simp
  rw [BitVec.extractLsb'_xor, hz, BitVec.xor_zero]

theorem getLsbD_xor {m mask : Word} (hm : m &&& mask = 0) {k : Nat}
    (h : mask.getLsbD k = true) (w : Word) : (w ^^^ m).getLsbD k = w.getLsbD k := by
  have hz : m.getLsbD k = false := by
    calc m.getLsbD k
      _ = (m &&& mask).getLsbD k := by rw [BitVec.getLsbD_and, h, Bool.and_true]
      _ = false := by rw [hm]; exact BitVec.getLsbD_zero
  rw [BitVec.getLsbD_xor, hz, Bool.xor_false]

/-- Settles O7: each mask misses the opcode, the bit that tells two forms apart and every field of
the form, so the changed word stands in the same case with the same fields. -/
theorem ignoredBitsChangeNothing : Obligations.IgnoredBitsChangeNothing := by
  unfold Obligations.IgnoredBitsChangeNothing
  intro w m h
  have hop {mask : Word} {op : BitVec 4} (hm : m &&& mask = 0) (ho : w.toNat / 4096 = op.toNat)
      (hmask : mask.extractLsb' 12 4 = BitVec.allOnes 4) : opcodeOf (w ^^^ m) = op :=
    (extract_xor hm hmask w).trans (opcodeOf_of_div ho)
  rcases h with ⟨ho | ho, h5, hm⟩ | ⟨ho, hm⟩ | ⟨ho, hm⟩ | ⟨ho, h11, hm⟩ | ⟨ho, hm⟩ | ⟨ho | ho, hm⟩
  · have hx := Decodes.addR (hop hm ho (by decide)) ((getLsbD_xor hm (by decide) w).trans h5)
    rw [hx.decode_eq, (Decodes.addR (opcodeOf_of_div ho) h5).decode_eq]
    simp (disch := decide) only [regAt11, regAt8, regAt2, extract_xor hm]
  · have hx := Decodes.andR (hop hm ho (by decide)) ((getLsbD_xor hm (by decide) w).trans h5)
    rw [hx.decode_eq, (Decodes.andR (opcodeOf_of_div ho) h5).decode_eq]
    simp (disch := decide) only [regAt11, regAt8, regAt2, extract_xor hm]
  · have hx := Decodes.not (hop hm ho (by decide))
    rw [hx.decode_eq, (Decodes.not (opcodeOf_of_div ho)).decode_eq]
    simp (disch := decide) only [regAt11, regAt8, extract_xor hm]
  · have hx := Decodes.jump (hop hm ho (by decide))
    rw [hx.decode_eq, (Decodes.jump (opcodeOf_of_div ho)).decode_eq]
    simp (disch := decide) only [regAt8, extract_xor hm]
  · have hx := Decodes.jsrr (hop hm ho (by decide)) ((getLsbD_xor hm (by decide) w).trans h11)
    rw [hx.decode_eq, (Decodes.jsrr (opcodeOf_of_div ho) h11).decode_eq]
    simp (disch := decide) only [regAt8, extract_xor hm]
  · have hx := Decodes.trap (hop hm ho (by decide))
    rw [hx.decode_eq, (Decodes.trap (opcodeOf_of_div ho)).decode_eq]
    simp (disch := decide) only [trapVectOf, extract_xor hm]
  · rw [(Decodes.rti (hop hm ho (by decide))).decode_eq,
      (Decodes.rti (opcodeOf_of_div ho)).decode_eq]
  · rw [(Decodes.res (hop hm ho (by decide))).decode_eq,
      (Decodes.res (opcodeOf_of_div ho)).decode_eq]

/-! ## Decode of encode: each form's fields are read back from its word -/

theorem fields_encodeOperateR (op : BitVec 4) (dr sr1 sr2 : Reg) :
    let w := encodeOperateR op dr sr1 sr2
    w.getLsbD 5 = false ∧ regAt11 w = dr ∧ regAt8 w = sr1 ∧ regAt2 w = sr2 := by
  simp (disch := decide) [encodeOperateR, regAt11, regAt8, regAt2, bitsAt_getLsbD,
    BitVec.extractLsb'_or, extract_bitsAt_self, extract_bitsAt_other, -BitVec.getLsbD_eq_getElem]

theorem fields_encodeOperateI (op : BitVec 4) (dr sr1 : Reg) (imm5 : BitVec 5) :
    let w := encodeOperateI op dr sr1 imm5
    w.getLsbD 5 = true ∧ regAt11 w = dr ∧ regAt8 w = sr1 ∧ imm5Of w = imm5 := by
  simp (disch := decide) [encodeOperateI, regAt11, regAt8, imm5Of, bitsAt_getLsbD,
    BitVec.extractLsb'_or, extract_bitsAt_self, extract_bitsAt_other, -BitVec.getLsbD_eq_getElem]

theorem fields_encodePcRel (op : BitVec 4) (r : Reg) (off9 : BitVec 9) :
    let w := encodePcRel op r off9
    regAt11 w = r ∧ offset9Of w = off9 := by
  simp (disch := decide) [encodePcRel, regAt11, offset9Of,
    BitVec.extractLsb'_or, extract_bitsAt_self, extract_bitsAt_other]

theorem fields_encodeBaseOff (op : BitVec 4) (r base : Reg) (off6 : BitVec 6) :
    let w := encodeBaseOff op r base off6
    regAt11 w = r ∧ regAt8 w = base ∧ offset6Of w = off6 := by
  simp (disch := decide) [encodeBaseOff, regAt11, regAt8, offset6Of,
    BitVec.extractLsb'_or, extract_bitsAt_self, extract_bitsAt_other]

theorem fields_encode_not (dr sr : Reg) :
    let w := encode (.not dr sr)
    regAt11 w = dr ∧ regAt8 w = sr := by
  simp (disch := decide) [encode, regAt11, regAt8,
    BitVec.extractLsb'_or, extract_bitsAt_self, extract_bitsAt_other]

theorem fields_encode_br (n z p : Bool) (off9 : BitVec 9) :
    let w := encode (.br n z p off9)
    w.getLsbD 11 = n ∧ w.getLsbD 10 = z ∧ w.getLsbD 9 = p ∧ offset9Of w = off9 := by
  simp (disch := decide) [encode, offset9Of, bitsAt_getLsbD,
    BitVec.extractLsb'_or, extract_bitsAt_self, extract_bitsAt_other, -BitVec.getLsbD_eq_getElem]

theorem fields_encode_jsr (off11 : BitVec 11) :
    let w := encode (.jsr off11)
    w.getLsbD 11 = true ∧ offset11Of w = off11 := by
  simp (disch := decide) [encode, offset11Of, bitsAt_getLsbD,
    BitVec.extractLsb'_or, extract_bitsAt_self, extract_bitsAt_other, -BitVec.getLsbD_eq_getElem]

theorem fields_encode_jsrr (base : Reg) :
    let w := encode (.jsrr base)
    w.getLsbD 11 = false ∧ regAt8 w = base := by
  simp (disch := decide) [encode, regAt8, bitsAt_getLsbD,
    BitVec.extractLsb'_or, extract_bitsAt_self, extract_bitsAt_other, -BitVec.getLsbD_eq_getElem]

/-- The word of JMP or RET decodes by its register (R87, R143). -/
theorem decode_encodeJump (base : Reg) : decode (encodeJump base) = jumpInstr base := by
  have hf : regAt8 (encodeJump base) = base := by
    simp (disch := decide) [encodeJump, regAt8,
      BitVec.extractLsb'_or, extract_bitsAt_self, extract_bitsAt_other]
  rw [(Decodes.jump (Laws.OpcodeField.jump base)).decode_eq, hf]

/-- The word of TRAP decodes by its vector (R92, R202). -/
theorem decode_encodeTrap (vec : Byte) : decode (encodeTrap vec) = trapInstr vec := by
  have hf : trapVectOf (encodeTrap vec) = vec := by
    simp (disch := decide) [encodeTrap, trapVectOf,
      BitVec.extractLsb'_or, extract_bitsAt_self, extract_bitsAt_other]
  rw [(Decodes.trap (Laws.OpcodeField.trapWord vec)).decode_eq, hf]

section
open Laws.OpcodeField

/-- Settles O1: the encoded word stands in the instruction's case, its fields are the operands. -/
theorem decodeEncodeRoundTrip : Obligations.DecodeEncodeRoundTrip := by
  unfold Obligations.DecodeEncodeRoundTrip
  intro i hi
  cases i with
  | addR dr sr1 sr2 =>
    obtain ⟨h5, hdr, hsr1, hsr2⟩ := fields_encodeOperateR 0x1 dr sr1 sr2
    exact (Decodes.addR (operateR _ _ _ _) h5).decode_eq.trans (by rw [hdr, hsr1, hsr2])
  | addI dr sr1 imm5 =>
    obtain ⟨h5, hdr, hsr1, himm⟩ := fields_encodeOperateI 0x1 dr sr1 imm5
    exact (Decodes.addI (operateI _ _ _ _) h5).decode_eq.trans (by rw [hdr, hsr1, himm])
  | andR dr sr1 sr2 =>
    obtain ⟨h5, hdr, hsr1, hsr2⟩ := fields_encodeOperateR 0x5 dr sr1 sr2
    exact (Decodes.andR (operateR _ _ _ _) h5).decode_eq.trans (by rw [hdr, hsr1, hsr2])
  | andI dr sr1 imm5 =>
    obtain ⟨h5, hdr, hsr1, himm⟩ := fields_encodeOperateI 0x5 dr sr1 imm5
    exact (Decodes.andI (operateI _ _ _ _) h5).decode_eq.trans (by rw [hdr, hsr1, himm])
  | not dr sr =>
    obtain ⟨hdr, hsr⟩ := fields_encode_not dr sr
    exact (Decodes.not (Laws.OpcodeField.not dr sr)).decode_eq.trans (by rw [hdr, hsr])
  | br n z p off9 =>
    obtain ⟨hn, hz, hp, hoff⟩ := fields_encode_br n z p off9
    exact (Decodes.br (br n z p off9)).decode_eq.trans (by rw [hn, hz, hp, hoff])
  | jmp base => exact (decode_encodeJump base).trans (jumpInstr_of_ne (of_decide_eq_true hi))
  | ret => exact decode_encodeJump .R7
  | jsr off11 =>
    obtain ⟨h11, hoff⟩ := fields_encode_jsr off11
    exact (Decodes.jsr (jsr off11) h11).decode_eq.trans (by rw [hoff])
  | jsrr base =>
    obtain ⟨h11, hbase⟩ := fields_encode_jsrr base
    exact (Decodes.jsrr (jsrr base) h11).decode_eq.trans (by rw [hbase])
  | ld dr off9 =>
    obtain ⟨hdr, hoff⟩ := fields_encodePcRel 0x2 dr off9
    exact (Decodes.ld (pcRel _ _ _)).decode_eq.trans (by rw [hdr, hoff])
  | ldi dr off9 =>
    obtain ⟨hdr, hoff⟩ := fields_encodePcRel 0xA dr off9
    exact (Decodes.ldi (pcRel _ _ _)).decode_eq.trans (by rw [hdr, hoff])
  | ldr dr base off6 =>
    obtain ⟨hdr, hbase, hoff⟩ := fields_encodeBaseOff 0x6 dr base off6
    exact (Decodes.ldr (baseOff _ _ _ _)).decode_eq.trans (by rw [hdr, hbase, hoff])
  | lea dr off9 =>
    obtain ⟨hdr, hoff⟩ := fields_encodePcRel 0xE dr off9
    exact (Decodes.lea (pcRel _ _ _)).decode_eq.trans (by rw [hdr, hoff])
  | st sr off9 =>
    obtain ⟨hsr, hoff⟩ := fields_encodePcRel 0x3 sr off9
    exact (Decodes.st (pcRel _ _ _)).decode_eq.trans (by rw [hsr, hoff])
  | sti sr off9 =>
    obtain ⟨hsr, hoff⟩ := fields_encodePcRel 0xB sr off9
    exact (Decodes.sti (pcRel _ _ _)).decode_eq.trans (by rw [hsr, hoff])
  | str sr base off6 =>
    obtain ⟨hsr, hbase, hoff⟩ := fields_encodeBaseOff 0x7 sr base off6
    exact (Decodes.str (baseOff _ _ _ _)).decode_eq.trans (by rw [hsr, hbase, hoff])
  | trap vec => exact (decode_encodeTrap vec).trans (trapInstr_of_none (of_decide_eq_true hi))
  | getc => exact (decode_encodeTrap _).trans (trapInstr_serviceCode .getc)
  | out => exact (decode_encodeTrap _).trans (trapInstr_serviceCode .out)
  | puts => exact (decode_encodeTrap _).trans (trapInstr_serviceCode .puts)
  | inChar => exact (decode_encodeTrap _).trans (trapInstr_serviceCode .inChar)
  | putsp => exact (decode_encodeTrap _).trans (trapInstr_serviceCode .putsp)
  | halt => exact (decode_encodeTrap _).trans (trapInstr_serviceCode .halt)
  | rti => exact (Decodes.rti rti).decode_eq
  | res => exact (Decodes.res res).decode_eq

end

/-! ## Encode of decode: a word put together from its own fields -/

/-- A field put back at its place is the word under the field's mask. -/
theorem bitsAt_extract (lo n : Nat) (w : Word) :
    bitsAt lo (w.extractLsb' lo n) = w &&& bitsAt lo (BitVec.allOnes n) := by
  ext k hk
  by_cases hl : lo ≤ k
  · simp [← BitVec.getLsbD_eq_getElem, bitsAt_getLsbD, hl, hk, Bool.and_comm]
  · simp [← BitVec.getLsbD_eq_getElem, bitsAt_getLsbD, hl]

/-- The same for a field of one bit. -/
theorem bitsAt_getLsbD_self (k : Nat) (w : Word) :
    bitsAt k (BitVec.ofBool (w.getLsbD k)) = w &&& bitsAt k 1#1 := by
  have hx : BitVec.ofBool (w.getLsbD k) = w.extractLsb' k 1 := by
    ext j hj
    obtain rfl : j = 0 := by omega
    simp
  rw [hx, bitsAt_extract]
  rfl

/-- A bit that is set may be written as its own field. -/
theorem bitsAt_of_set {k : Nat} {w : Word} (h : w.getLsbD k = true) :
    bitsAt k 1#1 = w &&& bitsAt k 1#1 := by
  rw [← bitsAt_getLsbD_self, h]
  rfl

theorem and_bitsAt_of_clear {k : Nat} {w : Word} (h : w.getLsbD k = false) :
    w &&& bitsAt k 1#1 = 0#16 := by
  rw [← bitsAt_getLsbD_self, h]
  simp [bitsAt]

section
variable {w : Word} {op : BitVec 4} (ho : opcodeOf w = op)
include ho

theorem bitsAt_opcode : bitsAt 12 op = w &&& 0xF000 := by
  subst ho
  exact (bitsAt_extract 12 4 w).trans (congrArg (w &&& ·) (by decide))

/-- Bit 5 is clear in both words, so it may stand in the mask. -/
theorem encodeOperateR_eq_and (h5 : w.getLsbD 5 = false) :
    encodeOperateR op (regAt11 w) (regAt8 w) (regAt2 w) = w &&& 0xFFE7 := by
  calc encodeOperateR op (regAt11 w) (regAt8 w) (regAt2 w)
    _ = encodeOperateR op (regAt11 w) (regAt8 w) (regAt2 w) ||| w &&& bitsAt 5 1#1 := by
      rw [and_bitsAt_of_clear h5, BitVec.or_zero]
    _ = w &&& 0xFFE7 := by
      simp only [encodeOperateR, regAt11, regAt8, regAt2, regBits_regOfBits, bitsAt_opcode ho,
        bitsAt_extract, ← BitVec.and_or_distrib_left]
      exact congrArg (w &&& ·) (by decide)

theorem encodeOperateI_eq_and (h5 : w.getLsbD 5 = true) :
    encodeOperateI op (regAt11 w) (regAt8 w) (imm5Of w) = w &&& 0xFFFF := by
  rw [encodeOperateI, bitsAt_of_set h5]
  simp only [regAt11, regAt8, imm5Of, regBits_regOfBits, bitsAt_opcode ho,
    bitsAt_extract, ← BitVec.and_or_distrib_left]
  exact congrArg (w &&& ·) (by decide)

theorem encodePcRel_eq_and : encodePcRel op (regAt11 w) (offset9Of w) = w &&& 0xFFFF := by
  simp only [encodePcRel, regAt11, offset9Of, regBits_regOfBits, bitsAt_opcode ho,
    bitsAt_extract, ← BitVec.and_or_distrib_left]
  exact congrArg (w &&& ·) (by decide)

theorem encodeBaseOff_eq_and :
    encodeBaseOff op (regAt11 w) (regAt8 w) (offset6Of w) = w &&& 0xFFFF := by
  simp only [encodeBaseOff, regAt11, regAt8, offset6Of, regBits_regOfBits, bitsAt_opcode ho,
    bitsAt_extract, ← BitVec.and_or_distrib_left]
  exact congrArg (w &&& ·) (by decide)

end

section
variable {w : Word}

theorem encode_not_eq (ho : opcodeOf w = 0x9#4) :
    encode (.not (regAt11 w) (regAt8 w)) = w &&& 0xFFC0 ||| 0x003F := by
  simp only [encode, regAt11, regAt8, regBits_regOfBits, bitsAt_opcode ho,
    bitsAt_extract, ← BitVec.and_or_distrib_left]
  exact congrArg (w &&& · ||| 0x003F) (by decide)

theorem encode_br_eq_and (ho : opcodeOf w = 0x0#4) :
    encode (.br (w.getLsbD 11) (w.getLsbD 10) (w.getLsbD 9) (offset9Of w)) = w &&& 0xFFFF := by
  simp only [encode, offset9Of, bitsAt_getLsbD_self, bitsAt_opcode ho,
    bitsAt_extract, ← BitVec.and_or_distrib_left]
  exact congrArg (w &&& ·) (by decide)

theorem encode_jsr_eq_and (ho : opcodeOf w = 0x4#4) (h11 : w.getLsbD 11 = true) :
    encode (.jsr (offset11Of w)) = w &&& 0xFFFF := by
  rw [encode, bitsAt_of_set h11]
  simp only [offset11Of, bitsAt_opcode ho, bitsAt_extract, ← BitVec.and_or_distrib_left]
  exact congrArg (w &&& ·) (by decide)

/-- Bit 11 is clear in both words, so it may stand in the mask. -/
theorem encode_jsrr_eq_and (ho : opcodeOf w = 0x4#4) (h11 : w.getLsbD 11 = false) :
    encode (.jsrr (regAt8 w)) = w &&& 0xF9C0 := by
  calc encode (.jsrr (regAt8 w))
    _ = encode (.jsrr (regAt8 w)) ||| w &&& bitsAt 11 1#1 := by
      rw [and_bitsAt_of_clear h11, BitVec.or_zero]
    _ = w &&& 0xF9C0 := by
      simp only [encode, regAt8, regBits_regOfBits, bitsAt_opcode ho,
        bitsAt_extract, ← BitVec.and_or_distrib_left]
      exact congrArg (w &&& ·) (by decide)

theorem encodeJump_eq_and (ho : opcodeOf w = 0xC#4) : encodeJump (regAt8 w) = w &&& 0xF1C0 := by
  simp only [encodeJump, regAt8, regBits_regOfBits, bitsAt_opcode ho,
    bitsAt_extract, ← BitVec.and_or_distrib_left]
  exact congrArg (w &&& ·) (by decide)

theorem encodeTrap_eq_and (ho : opcodeOf w = 0xF#4) : encodeTrap (trapVectOf w) = w &&& 0xF0FF := by
  simp only [encodeTrap, trapVectOf, bitsAt_opcode ho,
    bitsAt_extract, ← BitVec.and_or_distrib_left]
  exact congrArg (w &&& ·) (by decide)

end

/-- An instruction's word is the word it was decoded from, but for the ignored bits. -/
theorem Decodes.encode_eq {w : Word} {i : Instr} (h : Decodes w i) :
    encode i = canonicalWord w := by
  cases h with
  | addR ho h5 | andR ho h5 =>
    exact (encodeOperateR_eq_and ho h5).trans
      (by simp [canonicalWord, ignoredBits, assemblerBits, ho, h5, -BitVec.getLsbD_eq_getElem])
  | addI ho h5 | andI ho h5 =>
    exact (encodeOperateI_eq_and ho h5).trans
      (by simp [canonicalWord, ignoredBits, assemblerBits, ho, h5, -BitVec.getLsbD_eq_getElem])
  | ld ho | ldi ho | lea ho | st ho | sti ho =>
    exact (encodePcRel_eq_and ho).trans (by simp [canonicalWord, ignoredBits, assemblerBits, ho])
  | ldr ho | str ho =>
    exact (encodeBaseOff_eq_and ho).trans (by simp [canonicalWord, ignoredBits, assemblerBits, ho])
  | not ho =>
    exact (encode_not_eq ho).trans (by simp [canonicalWord, ignoredBits, assemblerBits, ho])
  | br ho =>
    exact (encode_br_eq_and ho).trans (by simp [canonicalWord, ignoredBits, assemblerBits, ho])
  | jsr ho h11 =>
    exact (encode_jsr_eq_and ho h11).trans
      (by simp [canonicalWord, ignoredBits, assemblerBits, ho, h11, -BitVec.getLsbD_eq_getElem])
  | jsrr ho h11 =>
    exact (encode_jsrr_eq_and ho h11).trans
      (by simp [canonicalWord, ignoredBits, assemblerBits, ho, h11, -BitVec.getLsbD_eq_getElem])
  | jump ho =>
    rw [encode_jumpInstr, encodeJump_eq_and ho]
    simp [canonicalWord, ignoredBits, assemblerBits, ho]
  | trap ho =>
    rw [encode_trapInstr, encodeTrap_eq_and ho]
    simp [canonicalWord, ignoredBits, assemblerBits, ho]
  | rti ho | res ho =>
    exact (bitsAt_opcode ho).trans (by simp [canonicalWord, ignoredBits, assemblerBits, ho])

theorem Decodes.wellFormed {w : Word} {i : Instr} (h : Decodes w i) : i.wellFormed = true := by
  cases h with
  | jump => exact jumpInstr_wellFormed _
  | trap => exact trapInstr_wellFormed _
  | br | addR | addI | ld | st | jsr | jsrr | andR | andI | ldr | str | rti | not | ldi | sti | res
  | lea => rfl

/-- Settles O2, case by case over the forms of word. -/
theorem encodeDecodeIsCanonicalWord : Obligations.EncodeDecodeIsCanonicalWord := by
  unfold Obligations.EncodeDecodeIsCanonicalWord
  exact fun w => ⟨(decodes_decode w).wellFormed, (decodes_decode w).encode_eq⟩

/-- Settles O8, by running the decoder on each word. -/
theorem sampleWordsDecode : Obligations.SampleWordsDecode := by
  unfold Obligations.SampleWordsDecode
  decide

end Sys2Proof

/-! # The statement about what halts the block -/

namespace Sys2Proof.Machine

open Sys2Proof.Claims

/-- The cause a word's instruction halts the block with, `none` where it does not halt (R230, R231,
R202, R208). -/
def haltCauseOf (w : Word) : HaltCause :=
  if w.toNat / 4096 = 0x8 ∨ w.toNat / 4096 = 0xD then
    .illegalOpcode (BitVec.ofNat 4 (w.toNat / 4096))
  else if w.toNat / 4096 = 0xF ∧ (w.toNat % 256 < 0x20 ∨ 0x25 < w.toNat % 256) then
    .badTrapVector (BitVec.ofNat 8 w.toNat)
  else if w.toNat / 4096 = 0xF ∧ w.toNat % 256 = 0x25 then .haltTrap
  else .none

/-- No opcode but the reserved ones and TRAP halts the block. -/
theorem haltCauseOf_eq_none {w : Word} {op : BitVec 4} (ho : opcodeOf w = op)
    (h : op ≠ 0x8 ∧ op ≠ 0xD ∧ op ≠ 0xF) : haltCauseOf w = .none := by
  obtain ⟨h8, hD, hF⟩ := h
  have hn {k : BitVec 4} (hk : op ≠ k) : w.toNat / 4096 ≠ k.toNat :=
    fun h => hk (ho.symm.trans (opcodeOf_of_div h))
  exact (if_neg (not_or_intro (hn h8) (hn hD))).trans
    ((if_neg (hn hF ∘ And.left)).trans (if_neg (hn hF ∘ And.left)))

/-- The reserved opcodes halt it with their own number (R230, R231). -/
theorem haltCauseOf_reserved {w : Word} {op : BitVec 4} (ho : opcodeOf w = op)
    (h : op = 0x8 ∨ op = 0xD) : haltCauseOf w = .illegalOpcode op := by
  have hn : w.toNat / 4096 = op.toNat := by rw [← toNat_opcodeOf, ho]
  rw [haltCauseOf, hn]
  rcases h with rfl | rfl <;> rfl

/-- TRAP's word halts the block by its vector (R202, R208). -/
theorem haltCauseOf_trap {w : Word} (ho : opcodeOf w = 0xF) :
    haltCauseOf w =
      if serviceOf (trapVectOf w) = none then .badTrapVector (trapVectOf w)
      else if serviceOf (trapVectOf w) = some .halt then .haltTrap
      else .none := by
  have hn : w.toNat / 4096 = 0xF := by rw [← toNat_opcodeOf, ho]; rfl
  simp [haltCauseOf, hn, serviceOf_eq_none_iff, serviceOf_eq_halt_iff, trapVectOf_eq_ofNat]

/-- HALT alone halts a RUNNING block (R208). -/
theorem State.runService_causeMatchesRun (v : Service) {s : State} (hr : s.runState = .running)
    (hc : s.haltCause = .none) :
    (s.runService v).CauseMatchesRun ∧
      (s.runService v).haltCause = if v = .halt then .haltTrap else .none := by
  by_cases hv : v = .halt
  · subst hv
    exact ⟨State.causeMatchesRun_enterHalted _ nofun, rfl⟩
  · rw [if_neg hv]
    rcases s.runService_run v with ⟨hrun, hcause⟩ | ⟨hh, -⟩
    · exact ⟨iff_of_true (hcause.trans hc) (hrun.trans hr), hcause.trans hc⟩
    · exact absurd hh hv

theorem exec_jumpInstr (base : Reg) (s : State) :
    exec (jumpInstr base) s = .next (s.jumpTo base) := by
  cases base <;> rfl

/-- A RUNNING block takes every instruction to a next state, HALTED with the word's cause or, where
there is none, still RUNNING (R98, R240). -/
theorem exec_of_decodes {w : Word} {i : Instr} (h : Decodes w i) {s : State}
    (hr : s.runState = .running) (hc : s.haltCause = .none) :
    ∃ t, exec i s = .next t ∧ t.CauseMatchesRun ∧ t.haltCause = haltCauseOf w := by
  cases h with
  | br ho | addR ho | addI ho | ld ho | st ho | jsr ho | jsrr ho | andR ho | andI ho | ldr ho
  | str ho | not ho | ldi ho | sti ho | lea ho =>
    exact ⟨_, rfl, iff_of_true hc hr, hc.trans (haltCauseOf_eq_none ho (by decide)).symm⟩
  | jump ho =>
    exact ⟨_, exec_jumpInstr _ s, iff_of_true hc hr,
      hc.trans (haltCauseOf_eq_none ho (by decide)).symm⟩
  | rti ho | res ho =>
    exact ⟨_, rfl, State.causeMatchesRun_enterHalted _ nofun,
      (haltCauseOf_reserved ho (by decide)).symm⟩
  | trap ho =>
    rw [haltCauseOf_trap ho]
    cases hv : serviceOf (trapVectOf w) with
    | none =>
      rw [trapInstr_of_none hv]
      exact ⟨_, exec_trap_of_serviceOf_none hv s, State.causeMatchesRun_enterHalted _ nofun, rfl⟩
    | some v =>
      have hi : RunsService (trapInstr (trapVectOf w)) v := .inr (by rw [serviceOf_some hv])
      refine ⟨_, exec_of_runsService hi s, ?_⟩
      simpa [hv] using State.runService_causeMatchesRun v hr hc

/-- Settles O11: the decoded instruction runs in the fetched state, which is still RUNNING. -/
theorem stepHaltsExactlyOnFaultsAndHalt : Obligations.StepHaltsExactlyOnFaultsAndHalt := by
  unfold Obligations.StepHaltsExactlyOnFaultsAndHalt
  intro s hr hc
  obtain ⟨t, ht, hrun, hcause⟩ :=
    exec_of_decodes (decodes_decode s.fetchWord) (s := s.fetched) hr hc
  exact ⟨t, (step_running hr).trans ht, hrun.symm, hcause⟩

end Sys2Proof.Machine

/-! # The statements about the operate instructions

Every operate instruction is `setResult` of its result; its frame is said once, for any result. -/

namespace Sys2Proof.Machine

open Sys2Proof.Claims

/-! ## The result of an instruction and its frame -/

theorem State.setResult_reg_self (s : State) (dr : Reg) (v : Word) :
    (s.setResult dr v).reg dr = v := by simp

/-- Writing a result changes R[DR] and Condition, and nothing else (R23, R27). -/
theorem State.writesResult_setResult (s : State) (dr : Reg) (v : Word) :
    WritesResult dr s (s.setResult dr v) := by
  have hcond : Reflects (s.setResult dr v).cond ((s.setResult dr v).reg dr) := by
    rw [State.setResult_reg_self]
    exact reflects_condOf v
  have hregs : SameRegsBut [dr] s (s.setResult dr v) := fun r hr => by
    rw [List.mem_singleton] at hr
    simp [hr]
  exact ⟨hcond, hregs, rfl, fun _ => rfl, ⟨rfl, rfl, rfl⟩, ⟨rfl, rfl, rfl⟩, rfl⟩

/-- The bits of a sign-extended immediate: those above bit 4 are copies of it (R94). -/
theorem getLsbD_sextImm5 (v : BitVec 5) {k : Nat} (hk : k < 16) :
    (sextImm5 v).getLsbD k = v.getLsbD (min k 4) := by
  rw [sextImm5, BitVec.getLsbD_signExtend, decide_eq_true hk, Bool.true_and]
  split
  · next h => rw [min_eq_left (Nat.le_of_lt_succ h)]
  · next h => rw [min_eq_right (by omega), BitVec.msb_eq_getLsbD_last]

/-! ## ADD -/

/-- Settles O29: the operands are read in the state before the write, so DR may be one of them. -/
theorem addRegisterForm : Obligations.AddRegisterForm := by
  unfold Obligations.AddRegisterForm
  intro dr sr1 sr2 s
  refine ⟨s.setResult dr (s.reg sr1 + s.reg sr2), rfl, ?_, s.writesResult_setResult dr _⟩
  rw [State.setResult_reg_self, BitVec.toNat_add]

/-- Settles O30, by the sum of a word and a sign-extended immediate (R94). -/
theorem addImmediateForm : Obligations.AddImmediateForm := by
  unfold Obligations.AddImmediateForm
  intro dr sr1 imm5 s
  refine ⟨s.setResult dr (s.reg sr1 + sextImm5 imm5), rfl, ?_, s.writesResult_setResult dr _⟩
  rw [State.setResult_reg_self]
  exact toNat_add_sextImm5 _ _

/-! ## AND -/

/-- Settles O31, bit by bit. -/
theorem andRegisterForm : Obligations.AndRegisterForm := by
  unfold Obligations.AndRegisterForm
  intro dr sr1 sr2 s
  refine ⟨s.setResult dr (s.reg sr1 &&& s.reg sr2), rfl, fun k _ => ?_,
    s.writesResult_setResult dr _⟩
  rw [State.setResult_reg_self, BitVec.getLsbD_and]

/-- Settles O32, bit by bit, by the bits of the sign-extended immediate (R94). -/
theorem andImmediateForm : Obligations.AndImmediateForm := by
  unfold Obligations.AndImmediateForm
  intro dr sr1 imm5 s
  refine ⟨s.setResult dr (s.reg sr1 &&& sextImm5 imm5), rfl, fun k hk => ?_,
    s.writesResult_setResult dr _⟩
  rw [State.setResult_reg_self, BitVec.getLsbD_and, getLsbD_sextImm5 imm5 hk]

/-! ## NOT -/

/-- Settles O33: the complement of a word is its distance to 0xFFFF. -/
theorem notComplementsWord : Obligations.NotComplementsWord := by
  unfold Obligations.NotComplementsWord
  intro dr sr s
  refine ⟨s.setResult dr (~~~ s.reg sr), rfl, ?_, s.writesResult_setResult dr _⟩
  rw [State.setResult_reg_self, BitVec.toNat_not]

end Sys2Proof.Machine

/-! # The statements about control transfer

BR, JMP and RET are `setPc`; JSR and JSRR are `setPc` after R7 is linked to the incremented pc. -/

namespace Sys2Proof.Machine

open Sys2Proof.Claims

/-! ## BR -/

/-- Settles O34, by the bit-test: a branch is taken exactly when the flag Condition holds is among
the instruction's. -/
theorem branchTestsFlagBits : Obligations.BranchTestsFlagBits := by
  unfold Obligations.BranchTestsFlagBits
  intro n z p off9 s
  refine ⟨s.setPc (if branchTaken n z p s.cond then s.pcRel9 off9 else s.pc), rfl, ?_, rfl⟩
  rw [State.setPc_pc]
  simp only [← branchTaken_iff]
  by_cases h : branchTaken n z p s.cond = true
  · rw [if_pos h, if_pos h]
    exact toNat_pcRel9 s off9
  · rw [if_neg h, if_neg h]

/-! ## JSR and JSRR -/

theorem State.link_reg_R7 (s : State) (p : Word) :
    ((s.setReg .R7 s.pc).setPc p).reg .R7 = s.pc := by simp

/-- Settles O36: the link changes R7 and not the pc the offset is added to; the other registers are
kept by the register frame of all instructions. -/
theorem jsrLinksThenJumps : Obligations.JsrLinksThenJumps := by
  unfold Obligations.JsrLinksThenJumps
  exact fun off11 s => ⟨(s.setReg .R7 s.pc).setPc (s.pcRel11 off11), rfl, s.link_reg_R7 _,
    toNat_pcRel11 s off11, (exec_effect (i := .jsr off11) rfl).sameRegsBut, rfl⟩

/-- Settles O37: BaseR is read in the linked state, where R7 is the incremented pc. -/
theorem jsrrLinksBeforeReadingBase : Obligations.JsrrLinksBeforeReadingBase := by
  unfold Obligations.JsrrLinksBeforeReadingBase
  exact fun base s => ⟨(s.setReg .R7 s.pc).jumpTo base, rfl, s.link_reg_R7 _,
    s.setReg_reg .R7 base s.pc, (exec_effect (i := .jsrr base) rfl).sameRegsBut, rfl⟩

/-! ## JMP and RET -/

/-- Settles O35: RET and JMP R7 are the same `jumpTo`. -/
theorem jumpThroughRegister : Obligations.JumpThroughRegister := by
  unfold Obligations.JumpThroughRegister
  exact ⟨fun base s => ⟨s.jumpTo base, rfl, rfl, rfl⟩, fun s => ⟨s.jumpTo .R7, rfl, rfl, rfl, rfl⟩⟩

end Sys2Proof.Machine

/-! # The statements about the loads

LD, LDI and LDR are `loadFrom` at their effective address, LDI after the read of its pointer; LEA is
`setResult` of the address itself. -/

namespace Sys2Proof.Machine

open Sys2Proof.Claims

/-! ## A load and its frame -/

/-- The base and the signed offset fix the effective address (R61). -/
theorem eq_of_isSum {v w base : Word} {d : Int} (hv : IsSum v base d) (hw : IsSum w base d) :
    v = w :=
  BitVec.eq_of_toNat_eq (Int.ofNat_inj.mp (hv.trans hw.symm))

theorem State.loadFrom_reg_self (s : State) (dr : Reg) (ea : Word) :
    (s.loadFrom dr ea).reg dr = s.memRead ea :=
  (s.afterRead ea).setResult_reg_self dr _

/-- The frame of a result does not speak of the draws, all that a read before it changes (R59). -/
theorem writesResult_of_afterRead {dr : Reg} {s t : State} {a : Word}
    (h : WritesResult dr (s.afterRead a) t) : WritesResult dr s t := h

theorem State.writesResult_loadFrom (s : State) (dr : Reg) (ea : Word) :
    WritesResult dr s (s.loadFrom dr ea) :=
  writesResult_of_afterRead ((s.afterRead ea).writesResult_setResult dr _)

/-! ## LD, LDI and LDR -/

/-- Settles O38: the address of the premise is the one LD reads at. -/
theorem ldLoadsPcRelative : Obligations.LdLoadsPcRelative := by
  unfold Obligations.LdLoadsPcRelative
  intro dr off9 ea s hea
  obtain rfl := eq_of_isSum hea (toNat_pcRel9 s off9)
  exact ⟨s.loadFrom dr (s.pcRel9 off9), rfl, s.loadFrom_reg_self dr _, s.writesResult_loadFrom dr _⟩

/-- Settles O39: the load through the pointer runs in the state after the pointer's read, whose
draws are counted. -/
theorem ldiLoadsIndirect : Obligations.LdiLoadsIndirect := by
  unfold Obligations.LdiLoadsIndirect
  intro dr off9 ptr s hptr
  obtain rfl := eq_of_isSum hptr (toNat_pcRel9 s off9)
  have hload := (s.afterRead (s.pcRel9 off9)).writesResult_loadFrom dr (s.memRead (s.pcRel9 off9))
  exact ⟨(s.afterRead (s.pcRel9 off9)).loadFrom dr (s.memRead (s.pcRel9 off9)), rfl,
    State.loadFrom_reg_self _ dr _, writesResult_of_afterRead hload⟩

/-- Settles O40: the base is read before the load, so DR may be the base. -/
theorem ldrLoadsBaseOffset : Obligations.LdrLoadsBaseOffset := by
  unfold Obligations.LdrLoadsBaseOffset
  intro dr base off6 ea s hea
  obtain rfl := eq_of_isSum hea (toNat_baseOff6 s base off6)
  exact ⟨s.loadFrom dr (s.baseOff6 base off6), rfl, s.loadFrom_reg_self dr _,
    s.writesResult_loadFrom dr _⟩

/-! ## LEA -/

/-- Settles O41: writing a result takes no draw, so LEA's state shows no read. -/
theorem leaLoadsAddress : Obligations.LeaLoadsAddress := by
  unfold Obligations.LeaLoadsAddress
  intro dr off9 s
  refine ⟨s.setResult dr (s.pcRel9 off9), rfl, ?_, s.writesResult_setResult dr _, rfl⟩
  rw [State.setResult_reg_self]
  exact toNat_pcRel9 s off9

end Sys2Proof.Machine

/-! # The statements about the stores

ST, STI and STR write the word the table `stored` gives them (`exec_of_stored`); the frame of a store
is said once, for any address and word. -/

namespace Sys2Proof.Machine

open Sys2Proof.Claims

/-! ## A store and its frame -/

/-- A write to memory changes the word at its address, and nothing else (R54, R63). -/
theorem State.writesWord_memWrite {s : State} (hm : s.mem.wf = true) (ea v : Word) :
    WritesWord ea v s (s.memWrite ea v) := by
  have hread (a : Word) := State.memWord_memWrite hm ea v a
  have hword : (s.memWrite ea v).memWord ea = v := (hread ea).trans (if_pos rfl)
  have hothers (a : Word) (ha : a ≠ ea) : (s.memWrite ea v).memWord a = s.memWord a :=
    (hread a).trans (if_neg ha)
  exact ⟨hword, hothers, fun _ _ => rfl, rfl, rfl, ⟨rfl, rfl, rfl⟩, ⟨rfl, rfl, rfl⟩, rfl⟩

/-- The frame of a store does not speak of the draws, which STI's read of its pointer counts (R59). -/
theorem writesWord_setDraws {ea v : Word} {s t : State} (h : WritesWord ea v s t) (k : Nat) :
    WritesWord ea v s (t.setDraws k) := h

/-- An instruction with a word to store stores it and changes nothing else (R180 to R183). -/
theorem writesWord_of_stored {i : Instr} {s : State} {ea v : Word} (hm : s.mem.wf = true)
    (h : stored s i = some (ea, v)) : ∃ t, exec i s = .next t ∧ WritesWord ea v s t := by
  obtain ⟨k, hk⟩ := exec_of_stored h
  exact ⟨_, hk, writesWord_setDraws (State.writesWord_memWrite hm ea v) k⟩

/-! ## ST, STI and STR -/

/-- Settles O42: ST stores SR at `pcRel9`. -/
theorem stStoresPcRelative : Obligations.StStoresPcRelative := by
  unfold Obligations.StStoresPcRelative
  exact fun sr off9 s hm => writesWord_of_stored (i := .st sr off9) hm rfl

/-- Settles O43: STI stores SR at the word read at `pcRel9`; only the draws tell of that read. -/
theorem stiStoresIndirect : Obligations.StiStoresIndirect := by
  unfold Obligations.StiStoresIndirect
  exact fun sr off9 s hm => writesWord_of_stored (i := .sti sr off9) hm rfl

/-- Settles O44: STR stores SR at `baseOff6`; both registers are read before the write, so SR may be
the base. -/
theorem strStoresBaseOffset : Obligations.StrStoresBaseOffset := by
  unfold Obligations.StrStoresBaseOffset
  exact fun sr base off6 s hm => writesWord_of_stored (i := .str sr base off6) hm rfl

end Sys2Proof.Machine

/-! # The statements about TRAP and the services

A GETC or IN that waits is held: its fetch is taken back, a request stands and IN's prompt is out. A
string service is one walk, which reads no address twice, so that a draw at KBDR_ADDR changes no
later read. -/

namespace Sys2Proof.Machine

open Sys2Proof.Claims

/-! ## The request for a character -/

/-- An instruction that asks for a character is held, or leaves no request; any other leaves the
request as it was (R211). -/
theorem Effect.request_cases {i : Instr} {s t : State} (h : Effect s i t) :
    (i.asksInput = true ∧ ∃ bs, t = (s.outputBytes bs).hold) ∨ t.inputRequested = false ∨
      (i.asksInput = false ∧ t.inputRequested = s.inputRequested) := by
  cases h with
  | held bs hi => exact .inl ⟨hi, bs, rfl⟩
  | took => exact .inr (.inl rfl)
  | result v k hi => exact .inr (.inr ⟨asksInput_of_resultReg hi, rfl⟩)
  | store k hi => exact .inr (.inr ⟨(resultReg_asksInput_of_stored hi).2, rfl⟩)
  | jump p hi | link p hi =>
    exact .inr (.inr ⟨(resultReg_asksInput_of_transfersControl hi).2, rfl⟩)
  | wrote bs k hi ha => exact .inr (.inr ⟨ha, rfl⟩)
  | haltTrap hi => exact .inr (.inr ⟨asksInput_of_runsService hi, rfl⟩)
  | badVector vec hv => exact .inr (.inr ⟨asksInput_of_serviceOf_none hv, rfl⟩)
  | reserved hi => rcases hi with rfl | rfl <;> exact .inr (.inr ⟨rfl, rfl⟩)

/-- Settles O14: a held step leaves the state that fetched its instruction, the request standing; no
other step leaves a request, since the one it started with is of the instruction it ran. -/
theorem stepKeepsHeldRequest : Obligations.StepKeepsHeldRequest := by
  unfold Obligations.StepKeepsHeldRequest
  intro s t hs h hreq
  obtain ⟨hr, he⟩ := step_next h
  obtain ⟨ha, bs, rfl⟩ | hn | ⟨ha, hsame⟩ := (exec_effect he).request_cases
  · have hheld : (s.fetched.outputBytes bs).hold =
        { s.outputBytes bs with inputRequested := true } := (s.outputBytes bs).hold_fetched
    rw [hheld]
    exact ⟨hr, ha⟩
  · cases hn.symm.trans hreq
  · have hasks : (decode s.fetchWord).asksInput = true := (hs (hsame.symm.trans hreq)).2
    cases ha.symm.trans hasks

/-! ## A held GETC or IN -/

/-- GETC and IN, by name or by vector, are the instructions that ask for a character (R36). -/
theorem runsService_of_asksInput {i : Instr} (h : i.asksInput = true) :
    RunsService i .getc ∨ RunsService i .inChar := by
  cases i with
  | getc => exact .inl (.inr rfl)
  | inChar => exact .inr (.inr rfl)
  | trap vec =>
    have hv : vec = 0x20 ∨ vec = 0x23 := of_decide_eq_true h
    exact hv.imp (.inl ∘ congrArg Instr.trap) (.inl ∘ congrArg Instr.trap)
  | _ => cases h

/-- A RUNNING block that fetches a service runs it after the fetch (R38, R200). -/
theorem step_runsService {s : State} {v : Service} (hr : s.runState = .running)
    (hv : RunsService (decode s.fetchWord) v) : step s = .next (s.fetched.runService v) :=
  (step_running hr).trans (exec_of_runsService hv _)

theorem step_getc_noCharacter {s : State} (hr : s.runState = .running) (hn : s.noCharacter)
    (hv : RunsService (decode s.fetchWord) .getc) :
    step s = .next { s with inputRequested := true } := by
  have hw : s.fetched.inputWord = none := s.inputWord_eq_none_iff.mpr hn
  rw [step_runsService hr hv, State.runService, State.serviceGetc_none _ hw, State.hold_fetched]

theorem step_inChar_noCharacter {s : State} (hr : s.runState = .running) (hn : s.noCharacter)
    (hv : RunsService (decode s.fetchWord) .inChar) :
    step s = .next { s.showPrompt with inputRequested := true } := by
  have hw : s.fetched.inputWord = none := s.inputWord_eq_none_iff.mpr hn
  rw [step_runsService hr hv, State.runService, State.serviceIn_none _ hw,
    State.showPrompt_hold_fetched]

/-- Settles O54: what a held GETC and a held IN leave. -/
theorem inputWaitHoldsStep : Obligations.InputWaitHoldsStep := by
  unfold Obligations.InputWaitHoldsStep
  exact fun s hr hn => ⟨fun hd => step_getc_noCharacter hr hn (.inr hd),
    fun hd => step_inChar_noCharacter hr hn (.inr hd)⟩

/-- GETC, given a word, does not see that it was held (R203, R211). -/
theorem State.serviceGetc_requested {s : State} {w : Word} (h : s.inputWord = some w) :
    State.serviceGetc { s with inputRequested := true } = s.serviceGetc := by
  have hw : State.inputWord { s with inputRequested := true } = some w := h
  rw [State.serviceGetc_some _ hw, State.serviceGetc_some _ h]
  rfl

/-- IN, given a word, ends the same if it was held after its prompt (R206, R211). -/
theorem State.serviceIn_requested {s : State} {w : Word} (h : s.inputWord = some w) :
    State.serviceIn { s.showPrompt with inputRequested := true } = s.serviceIn := by
  have hw : State.inputWord { s.showPrompt with inputRequested := true } = some w := h
  have hp : State.showPrompt { s.showPrompt with inputRequested := true } =
      { s.showPrompt with inputRequested := true } := State.outputBytes_nil _
  rw [State.serviceIn_some _ hw, State.serviceIn_some _ h, hp]
  rfl

section
variable {u : State} {w : Word} (hr : u.runState = .running) (hw : u.inputWord = some w)
include hr hw

theorem step_getc_requested (hv : RunsService (decode u.fetchWord) .getc) :
    step { u with inputRequested := true } = step u := by
  rw [step_runsService hr hv, step_runsService (s := { u with inputRequested := true }) hr hv]
  exact congrArg Host.Outcome.next (State.serviceGetc_requested (s := u.fetched) hw)

theorem step_inChar_requested (hv : RunsService (decode u.fetchWord) .inChar) :
    step { u.showPrompt with inputRequested := true } = step u := by
  rw [step_runsService hr hv,
    step_runsService (s := { u.showPrompt with inputRequested := true }) hr hv]
  exact congrArg Host.Outcome.next (State.serviceIn_requested (s := u.fetched) hw)

end

/-- Settles O55: the hold adds the request and the prompt to the state and nothing else, and a
service given a word does not see either. -/
theorem heldStepResumesAsIfUnheld : Obligations.HeldStepResumesAsIfUnheld := by
  unfold Obligations.HeldStepResumesAsIfUnheld
  intro s h c hr hn he ha hstep
  have hempty : s.input = [] := hn.1
  have hw : (s.supplyInput c).inputWord = some (zextByte c) :=
    State.inputWord_cons _ (rest := []) (by simp [hempty, he])
  rcases runsService_of_asksInput ha with hv | hv
  · rw [step_getc_noCharacter hr hn hv] at hstep
    cases hstep
    exact step_getc_requested (u := s.supplyInput c) hr hw hv
  · rw [step_inChar_noCharacter hr hn hv] at hstep
    cases hstep
    exact step_inChar_requested (u := s.supplyInput c) hr hw hv

/-! ## The selection of a service -/

/-- TRAP completes with every vector (R200). -/
theorem exec_trap_next (vec : Byte) (s : State) : ∃ t, exec (.trap vec) s = .next t := by
  cases hv : serviceOf vec with
  | some v => exact ⟨_, exec_of_runsService (.inl (by rw [serviceOf_some hv])) s⟩
  | none => exact ⟨_, exec_trap_of_serviceOf_none hv s⟩

/-- The link of TRAP changes R7 alone (R201). -/
theorem State.serviceFrame_linkTrap (s : State) : ServiceFrame [] s s.linkTrap := by
  refine ⟨rfl, fun r hr => ?_, rfl, fun _ => rfl, rfl⟩
  rw [List.mem_singleton] at hr
  simp [hr]

/-- The frame does not speak of the run state or its cause, which a halt after the link sets (R208,
R242). -/
theorem State.serviceFrame_enterHalted (s : State) (cause : HaltCause) :
    ServiceFrame [] s (s.linkTrap.enterHalted cause) := s.serviceFrame_linkTrap

/-- Settles O45: TRAP completes, with each of the six codes as the named service does and with any
other in the fault after the link. -/
theorem trapSelectsService : Obligations.TrapSelectsService := by
  unfold Obligations.TrapSelectsService
  intro vec s
  obtain ⟨t, ht⟩ := exec_trap_next vec s
  refine ⟨t, ht, ?_, ?_, ?_, ?_, ?_, ?_, fun hout => ?_⟩
  iterate 6 · rintro rfl; exact ht
  · rw [exec_trap_of_serviceOf_none ((serviceOf_eq_none_iff vec).mpr hout)] at ht
    cases ht
    exact ⟨rfl, rfl, s.serviceFrame_enterHalted _, rfl, ⟨rfl, rfl, rfl⟩, rfl⟩

/-- Settles O51: HALT is the link and the halt, and a HALTED block has no step. -/
theorem haltStopsCleanly : Obligations.HaltStopsCleanly := by
  unfold Obligations.HaltStopsCleanly
  exact fun s => ⟨s.linkTrap.enterHalted .haltTrap, rfl, rfl, rfl, s.serviceFrame_enterHalted _,
    rfl, ⟨⟨rfl, rfl, rfl⟩, rfl⟩, haltedBlockHasNoStep _ rfl⟩

/-! ## GETC and IN with a character -/

theorem toNat_zextByte (c : Byte) : (zextByte c).toNat = c.toNat :=
  BitVec.toNat_setWidth_of_le (by decide)

theorem lowByte_zextByte (c : Byte) : lowByte (zextByte c) = c := by
  rw [lowByte_eq_ofNat, toNat_zextByte, BitVec.ofNat_toNat, BitVec.setWidth_eq]

/-- Settles O46: the port returns the oldest character, extended with zeros. -/
theorem getcReadsCharacter : Obligations.GetcReadsCharacter := by
  unfold Obligations.GetcReadsCharacter
  intro s c rest hi
  have hw := s.inputWord_cons hi
  have htail : s.input.tail = rest := congrArg List.tail hi
  obtain ⟨h0, hf, hc⟩ := serviceFrame_input s [] (zextByte c)
  rw [s.outputBytes_nil] at h0 hf hc
  exact ⟨_, congrArg Host.Outcome.next (s.serviceGetc_some hw),
    (congrArg BitVec.toNat h0).trans (toNat_zextByte c), hf, hc, htail, rfl, rfl, rfl,
    ⟨rfl, rfl, rfl⟩⟩

/-- Settles O49: the prompt and the echo are the bytes output; the rest is as GETC. -/
theorem inEchoesCharacter : Obligations.InEchoesCharacter := by
  unfold Obligations.InEchoesCharacter
  intro s c rest hi
  have hw := s.inputWord_cons hi
  have htail : s.input.tail = rest := congrArg List.tail hi
  obtain ⟨h0, hf, hc⟩ := serviceFrame_input s
    ((if s.inputRequested then [] else s.params.inPrompt) ++ [lowByte (zextByte c)]) (zextByte c)
  rw [← s.outputBytes_outputBytes] at h0 hf hc
  refine ⟨_, congrArg Host.Outcome.next (s.serviceIn_some hw),
    (congrArg BitVec.toNat h0).trans (toNat_zextByte c), hf, hc, htail, rfl, rfl,
    ⟨rfl, rfl, rfl⟩, ?_⟩
  simp [lowByte_zextByte]

/-! ## The string walk -/

/-- The word a walk from `a` reads as its `k`-th. -/
def State.wordFrom (s : State) (a : Word) (k : Nat) : Word := s.memRead (a + BitVec.ofNat 16 k)

theorem State.wordFrom_zero (s : State) (a : Word) : s.wordFrom a 0 = s.memRead a := by
  simp [State.wordFrom]

/-- Within 65,536 words no address comes again (D14). -/
theorem ne_add_ofNat (a : Word) {k : Nat} (hpos : 0 < k) (hk : k < 65536) :
    a ≠ a + BitVec.ofNat 16 k := by
  intro h
  have h0 : BitVec.ofNat 16 k = 0#16 := left_eq_add.mp h
  have hmod : k % 65536 = 0 := congrArg BitVec.toNat h0
  omega

/-- The words ahead do not see the draw of a read, whose address does not come again (R53). -/
theorem State.wordFrom_afterRead (s : State) (a : Word) (bs : List Byte) {k : Nat}
    (hk : k + 1 < 65536) :
    ((s.afterRead a).outputBytes bs).wordFrom (a + 1) k = s.wordFrom a (k + 1) := by
  have hsum : a + 1 + BitVec.ofNat 16 k = a + BitVec.ofNat 16 (k + 1) := by
    rw [Nat.add_comm k, BitVec.ofNat_add, ← BitVec.add_assoc]; rfl
  rw [State.wordFrom, hsum, State.outputBytes_memRead,
    s.memRead_afterRead (ne_add_ofNat a k.succ_pos hk), State.wordFrom]

/-- A walk that has the reads for it outputs the bytes of the words before the first that reads as
zero (R205, R207). -/
theorem State.walkString_output_of_end (f : Word → List Byte) {n fuel : Nat} (s : State) (a : Word)
    (hn : n < fuel) (hfuel : fuel ≤ 65536) (hne : ∀ k, k < n → s.wordFrom a k ≠ 0)
    (hend : s.wordFrom a n = 0) :
    (State.walkString f fuel a s).output =
      s.output ++ (List.range n).flatMap fun k => f (s.wordFrom a k) := by
  induction n generalizing fuel s a with
  | zero =>
    obtain ⟨fuel, rfl⟩ := Nat.exists_eq_add_one_of_ne_zero (Nat.ne_zero_of_lt hn)
    rw [s.wordFrom_zero] at hend
    rw [State.walkString, if_pos hend]
    exact (List.append_nil _).symm
  | succ n ih =>
    obtain ⟨fuel, rfl⟩ := Nat.exists_eq_add_one_of_ne_zero (Nat.ne_zero_of_lt hn)
    have hfirst : s.memRead a ≠ 0 := s.wordFrom_zero a ▸ hne 0 n.succ_pos
    have hahead {k : Nat} (hk : k ≤ n) :
        ((s.afterRead a).outputBytes (f (s.memRead a))).wordFrom (a + 1) k =
          s.wordFrom a (k + 1) :=
      s.wordFrom_afterRead a _ (by omega)
    rw [State.walkString, if_neg hfirst, ih _ _ (by omega) (by omega)
      (fun k hk => hahead hk.le ▸ hne (k + 1) (by omega)) ((hahead le_rfl).trans hend),
      List.flatMap_congr fun k hk => congrArg f (hahead (List.mem_range.mp hk).le),
      State.outputBytes_output, List.append_assoc, List.range_succ_eq_map, List.flatMap_cons,
      List.flatMap_map, s.wordFrom_zero]
    rfl

/-- Every 65,536 words read include `KBSR_ADDR`, which reads as zero (R53, R209). -/
theorem exists_stringWord_eq_zero (s : State) : ∃ k, k < 65536 ∧ stringWord s k = 0 := by
  have haddr : s.reg .R0 + BitVec.ofNat 16 (s.params.kbsrAddr - s.reg .R0).toNat =
      s.params.kbsrAddr := by
    rw [BitVec.ofNat_toNat, BitVec.setWidth_eq, BitVec.add_comm, BitVec.sub_add_cancel]
  exact ⟨_, BitVec.isLt _, by rw [stringWord, haddr]; exact if_pos rfl⟩

/-- Settles O52: the string ends at the first zero word, which comes no later than `KBSR_ADDR`. -/
theorem stringWalksEnd : Obligations.StringWalksEnd := by
  unfold Obligations.StringWalksEnd
  intro s
  obtain ⟨k, hk, hz⟩ := exists_stringWord_eq_zero s
  have h : ∃ n, stringWord s n = 0 := ⟨k, hz⟩
  exact ⟨Nat.find h, (Nat.find_le hz).trans_lt hk, fun _ => Nat.find_min h, Nat.find_spec h⟩

/-! ## OUT, PUTS and PUTSP -/

/-- The frame of a service that, after the link, outputs bytes and takes draws (R204, R205,
R207). -/
theorem State.serviceFrame_wrote (s : State) (bs : List Byte) (k : Nat) :
    let t := (s.linkTrap.outputBytes bs).setDraws k
    ServiceFrame [] s t ∧ t.cond = s.cond ∧ SameInput s t ∧ SameControl s t :=
  ⟨s.serviceFrame_linkTrap, rfl, ⟨rfl, rfl, rfl⟩, rfl, rfl, rfl⟩

/-- Settles O47: OUT takes no draw, and the link does not change R0. -/
theorem outWritesLowByte : Obligations.OutWritesLowByte := by
  unfold Obligations.OutWritesLowByte
  intro s
  refine ⟨s.serviceOut, rfl, ?_, s.serviceFrame_wrote [lowByte (s.reg .R0)] s.draws⟩
  rw [← lowByte_eq_ofNat]
  rfl

/-- The walk of a string service whose string ends before word `n` outputs the bytes of its words,
and its frame is that of the link (R205, R207). -/
theorem walkString_of_stringEndsAt (f : Word → List Byte) {s : State} {n : Nat}
    (h : StringEndsAt s n) :
    let t := State.walkString f walkFuel (s.reg .R0) s.linkTrap
    t.output = s.output ++ (List.range n).flatMap (fun k => f (stringWord s k)) ∧
      ServiceFrame [] s t ∧ t.cond = s.cond ∧ SameInput s t ∧ SameControl s t := by
  intro t
  obtain ⟨hn, hne, hend⟩ := h
  have hout := State.walkString_output_of_end f s.linkTrap (s.reg .R0) hn le_rfl hne hend
  obtain ⟨bs, k, ht⟩ : ∃ bs k, t = (s.linkTrap.outputBytes bs).setDraws k :=
    State.walkString_eq f walkFuel (s.reg .R0) s.linkTrap
  refine ⟨hout, ?_⟩
  rw [ht]
  exact s.serviceFrame_wrote bs k

/-- Settles O48: the walk outputs one byte for each word. -/
theorem putsWritesString : Obligations.PutsWritesString := by
  unfold Obligations.PutsWritesString
  intro s n h
  obtain ⟨hout, hframe⟩ := walkString_of_stringEndsAt putsBytes h
  refine ⟨s.servicePuts, rfl, hout.trans ?_, hframe⟩
  simp only [putsBytes, lowByte_eq_ofNat, List.map_eq_flatMap]

/-- `w[15:8]` is the word divided by 2^8. -/
theorem highByte_eq_ofNat (w : Word) : highByte w = BitVec.ofNat 8 (w.toNat / 256) := by
  simp [highByte, BitVec.extractLsb', Nat.shiftRight_eq_div_pow]

theorem highByte_eq_zero_iff (w : Word) : highByte w = 0 ↔ w.toNat / 256 = 0 := by
  have hw : w.toNat / 256 < 256 := Nat.div_lt_of_lt_mul w.isLt
  rw [highByte_eq_ofNat, ← BitVec.toNat_inj, BitVec.toNat_ofNat, Nat.mod_eq_of_lt hw]
  rfl

theorem putspBytes_eq_packedBytes (w : Word) : putspBytes w = packedBytes w := by
  rw [putspBytes, packedBytes, ← lowByte_eq_ofNat, ← highByte_eq_ofNat]
  exact if_congr (highByte_eq_zero_iff w) rfl rfl

/-- Settles O50: the walk outputs the packed bytes of each word. -/
theorem putspWritesPackedString : Obligations.PutspWritesPackedString := by
  unfold Obligations.PutspWritesPackedString
  intro s n h
  obtain ⟨hout, hframe⟩ := walkString_of_stringEndsAt putspBytes h
  simp only [putspBytes_eq_packedBytes] at hout
  exact ⟨s.servicePutsp, rfl, hout, hframe⟩

end Sys2Proof.Machine

/-! # The statements about the reserved opcodes

RTI and RES raise a fault before anything else is done, so their state is that of `raise` on the state
after the fetch. -/

namespace Sys2Proof.Machine

/-- A fault halts the block with its cause, saves and changes nothing else, and no step follows it
(R242, R30). -/
theorem State.raise_haltsOnly (s : State) (cause : HaltCause) :
    let t := s.raise cause
    t.runState = .halted ∧ t.haltCause = cause ∧
      t = { s with runState := t.runState, haltCause := t.haltCause } ∧ ∀ u, step t ≠ .next u :=
  have hrun : (s.raise cause).runState = .halted := s.enterHalted_runState cause
  ⟨hrun, s.enterHalted_haltCause cause, rfl, haltedBlockHasNoStep _ hrun⟩

/-- Settles O56: RTI raises the fault of opcode 1000. -/
theorem rtiFaults : Obligations.RtiFaults := by
  unfold Obligations.RtiFaults
  exact fun s => ⟨s.raise (.illegalOpcode 0x8), rfl, s.raise_haltsOnly _⟩

/-- Settles O57: RES raises the fault of opcode 1101. -/
theorem resFaults : Obligations.ResFaults := by
  unfold Obligations.ResFaults
  exact fun s => ⟨s.raise (.illegalOpcode 0xD), rfl, s.raise_haltsOnly _⟩

end Sys2Proof.Machine

/-! # The statement about the precision of faults

A faulting instruction is one `raise`, after the link for TRAP and before anything else for the reserved
opcodes; its frame is that of these two operations on the state after the fetch. -/

namespace Sys2Proof.Machine

open Sys2Proof.Claims

/-- An instruction that brings a fault has raised it, after the link where it is TRAP and with nothing
before it where it is not (R202, R230, R231, R242). -/
theorem Effect.eq_raise_of_isFault {i : Instr} {s t : State} (h : Effect s i t)
    (hc : s.haltCause = .none) (hf : t.haltCause.isFault = true) :
    ∃ cause, (i.opcode = 0xF ∧ t = s.linkTrap.raise cause) ∨
      (i.opcode ≠ 0xF ∧ t = s.raise cause) := by
  cases h with
  | result | store | jump | link | held | took | wrote =>
    cases (congrArg HaltCause.isFault hc).symm.trans hf
  | haltTrap => cases hf
  | badVector vec => exact ⟨_, .inl ⟨rfl, rfl⟩⟩
  | reserved hi =>
    refine ⟨_, .inr ⟨?_, rfl⟩⟩
    rcases hi with rfl | rfl <;> decide

/-- The decoded instruction is a TRAP when bits 15-12 of the word say so (R82). -/
theorem decode_opcode_eq_trap_iff (w : Word) : (decode w).opcode = 0xF ↔ w.toNat / 4096 = 0xF := by
  rw [← toNat_opcodeOf, (decodes_decode w).opcode_eq]
  exact BitVec.toNat_inj.symm

/-- Settles O12: the fault is raised on the state after the fetch, whose pc the link of TRAP saves. -/
theorem faultsArePrecise : Obligations.FaultsArePrecise := by
  unfold Obligations.FaultsArePrecise
  intro s t hc h hf
  have hop := decode_opcode_eq_trap_iff s.fetchWord
  obtain ⟨-, he⟩ := step_next h
  obtain ⟨cause, ⟨ho, rfl⟩ | ⟨ho, rfl⟩⟩ := (exec_effect he).eq_raise_of_isFault hc hf
  · obtain ⟨h7, hregs, -⟩ := s.fetched.serviceFrame_enterHalted cause
    refine ⟨rfl, fun _ => rfl, rfl, hregs, h7.trans ?_, ⟨⟨rfl, rfl, rfl⟩, rfl⟩, rfl⟩
    exact (if_congr (and_iff_right (hop.mp ho)) rfl rfl).symm
  · refine ⟨rfl, fun _ => rfl, rfl, fun _ _ => rfl, ?_, ⟨⟨rfl, rfl, rfl⟩, rfl⟩, rfl⟩
    exact (if_neg (mt hop.mpr ho ∘ And.left)).symm

end Sys2Proof.Machine

/-! # The statements about the load

The words of an image are placed by `read_loadWords`; a last single byte is met after all of them and
completes none. -/

namespace Sys2Proof.Machine

/-- Settles O58: the load writes the image's words into the state's memory, from the origin on. -/
theorem loadPlacesImage : Obligations.LoadPlacesImage := by
  unfold Obligations.LoadPlacesImage
  intro s origin words hm
  exact ⟨_, s.load_objectFile origin words, rfl, fun a => read_loadWords hm _ words a.isLt⟩

/-- A byte after the words of an image completes no word and is ignored (R275). -/
theorem loadWords_imageBytes_append_byte (a : Nat) (words : List Word) (b : Byte) (m : Memory) :
    loadWords a (imageBytes words ++ [b]) m = loadWords a (imageBytes words) m := by
  induction words generalizing a m with
  | nil => rfl
  | cons w ws ih =>
    show (if a ≤ 0xFFFF then loadWords (a + 1) (imageBytes ws ++ [b])
      (m.write a (wordOfBytes (highByte w) (lowByte w))) else m) = _
    rw [ih]
    rfl

/-- The load of an object file with bytes after it takes the origin from the first two bytes and the
words from the rest (R272). -/
theorem State.load_objectFile_append (s : State) (origin : Word) (words : List Word)
    (bs : List Byte) :
    s.load (objectFile origin words ++ bs) =
      some { s with mem := loadWords origin.toNat (imageBytes words ++ bs) s.mem, pc := origin } := by
  show some _ = some _
  rw [wordOfBytes_highByte_lowByte]
  rfl

/-- Settles O59: a short file has no origin, and the last byte is ignored with the words. -/
theorem loadEdges : Obligations.LoadEdges := by
  unfold Obligations.LoadEdges
  refine ⟨fun _ => rfl, fun _ _ => rfl, fun s origin words b => ?_⟩
  rw [s.load_objectFile_append, loadWords_imageBytes_append_byte, s.load_objectFile]

end Sys2Proof.Machine
